-- ==== Sys2Proof/Word.lean ====
section
/-! DEFINITION. The words, bytes and register files of the block (00_scope.md R12, 10_state.md R20). -/

namespace Sys2Proof

/-- A byte: 8 bits (R12). -/
abbrev Byte := BitVec 8

/-- A word: 32 bits, unsigned, bit 0 least significant (R12). -/
abbrev Word := BitVec 32

/-- The Key: eight 32-bit words (R21). -/
abbrev Key := Vector Word 8

/-- The Counter: `[block-counter, nonce-word0, nonce-word1, nonce-word2]` (R23). -/
abbrev Counter := Vector Word 4

/-- Sixteen words: the working state of the Block Function (R35) and the Block register (R25). -/
abbrev WordBlock := Vector Word 16

end Sys2Proof
end

