-- ==== Sys2Proof/Config.lean ====
section
/-! DEFINITION. What the platform fixes for a whole run: the parameters of the step relation (00_scope.md R11,
10_state.md R41). They are plain data, so that every platform can be written out; a machine carries its own in
`State.cfg`, which no step changes (log 3). `CHUNK` is not here: no result depends on it (43_buffer_xor_engine.md
R178). No rule of this hardware leaves a result undefined, so there is no free value. -/

namespace Sys2Proof

/-- The addresses `base .. base+size-1`. -/
structure Span where
  base : Nat
  size : Nat
deriving DecidableEq, Repr

/-- The kinds of access the predicate `MemOK` distinguishes (R57). -/
inductive AccessKind where
  | read
  | write
deriving DecidableEq, Repr

/-- The platform of one machine. -/
structure Config where
  /-- `AW`, the address width of the memory port: at most 32 (R11). -/
  aw         : Fin 33
  /-- The addresses at which the platform refuses reads: `MemOK(read, ..)` as data (R57, log 4). -/
  denyRead   : List Span
  /-- The addresses at which the platform refuses writes: `MemOK(write, ..)` as data (R57, log 4). -/
  denyWrite  : List Span
  /-- Where the platform maps the block's own register space into `Mem` addresses, if it does (R39, U7, log 5). -/
  regWindows : List Span
  /-- Where device memory lies, whose reads have side effects or whose writes do not store (R63, U8, log 5). -/
  devices    : List Span
deriving DecidableEq, Repr

/-- `AW = 32` (D3) and the document's own assumption: memory is simply there (R57). -/
def Config.standard : Config :=
  { aw := 32, denyRead := [], denyWrite := [], regWindows := [], devices := [] }

end Sys2Proof
end

