-- ==== Sys2Proof/Machine/Script.lean ====
section
/-! DEFINITION. The host's script (30_encoding.md R88, R89): the lines the host executes, the registers they name
(10_state.md R33), and what they observe. -/

namespace Sys2Proof.Machine

/-- The registers that have an offset (R33). `K` has none (R22). -/
inductive Reg where
  | cmd
  | status
  | src
  | slen
  | dst
  | dlen
  | arg
  /-- counter word `C[i]` -/
  | ctr (i : Fin 4)
  /-- block word `B[i]` -/
  | blk (i : Fin 16)
deriving DecidableEq, Repr

/-- How wide a register access is. Only whole words are defined (R34). -/
inductive AccessSize where
  | byte
  | half
  | word
deriving DecidableEq, Repr

/-- One line of a host script (R88), or a reset of the block from outside (R240). Register accesses name a byte
offset from the base of the register space and a width, so that the accesses R34 leaves undefined can be written
and refused. -/
inductive HostAction where
  /-- `wr`: write `v` to the register at offset `off`. -/
  | wr (off : Nat) (size : AccessSize) (v : Word)
  /-- `rd`: read the register at offset `off`; the value is an observation. -/
  | rd (off : Nat) (size : AccessSize)
  /-- `mw`: the host writes bytes to `Mem` from `a` on directly, not through the block. -/
  | mw (a : Nat) (bytes : List Byte)
  /-- `mr`: the host reads `n` bytes of `Mem` from `a` directly; the bytes are an observation. -/
  | mr (a n : Nat)
  /-- The reset event of R240. -/
  | reset
deriving DecidableEq, Repr

/-- What an `rd` or `mr` line saw (R88). -/
inductive Observation where
  | reg (off : Nat) (v : Word)
  | mem (a : Nat) (bytes : List Byte)
deriving DecidableEq, Repr

/-- The offset of a register (R33). -/
def Reg.offset (r : Reg) : Nat :=
  match r with
  | .cmd    => 0x00
  | .status => 0x04
  | .src    => 0x08
  | .slen   => 0x0C
  | .dst    => 0x10
  | .dlen   => 0x14
  | .arg    => 0x18
  | .ctr i  => 0x20 + 4 * i.val
  | .blk i  => 0x40 + 4 * i.val

/-- The register at an offset; `none` at the reserved offsets (R33). -/
def regAt (off : Nat) : Option Reg :=
  if off = 0x00 then some .cmd
  else if off = 0x04 then some .status
  else if off = 0x08 then some .src
  else if off = 0x0C then some .slen
  else if off = 0x10 then some .dst
  else if off = 0x14 then some .dlen
  else if off = 0x18 then some .arg
  else if off % 4 = 0 ∧ 0x20 ≤ off ∧ off < 0x30 then some (.ctr (Fin.ofNat 4 ((off - 0x20) / 4)))
  else if off % 4 = 0 ∧ 0x40 ≤ off ∧ off < 0x80 then some (.blk (Fin.ofNat 16 ((off - 0x40) / 4)))
  else none

/-- The register accesses the spec defines: whole words at offsets that are multiples of 4 (R34). -/
def regAccessDefined (off : Nat) (size : AccessSize) : Bool :=
  size == .word && off % 4 == 0

/-- `wr REG, v` (R88). -/
def wrReg (r : Reg) (v : Word) : HostAction := .wr r.offset .word v

/-- `rd REG` (R88). -/
def rdReg (r : Reg) : HostAction := .rd r.offset .word

/-- A command line: `wr CMD, w` (R88). -/
def wrCmd (w : Word) : HostAction := wrReg .cmd w

/-- `SETSRC a, n` (R89). -/
def setSrcLines (a n : Word) : List HostAction := [wrReg .src a, wrReg .slen n]

/-- `SETDST a, n` (R89). -/
def setDstLines (a n : Word) : List HostAction := [wrReg .dst a, wrReg .dlen n]

/-- `KEY a` (R89). -/
def keyLines (a : Word) : List HostAction := setSrcLines a 32 ++ [wrCmd 1]

/-- `IV a, c` (R89). -/
def ivLines (a c : Word) : List HostAction := setSrcLines a 12 ++ [wrReg .arg c, wrCmd 2]

/-- `XORBUF s, d, n` (R89). -/
def xorBufLines (s d n : Word) : List HostAction := setSrcLines s n ++ setDstLines d n ++ [wrCmd 6]

/-- `XORIP a, n` (R89). -/
def xorIpLines (a n : Word) : List HostAction := xorBufLines a a n

/-- `KS d, n` (R89). -/
def ksLines (d n : Word) : List HostAction := setDstLines d n ++ [wrCmd 5]

/-- `CHECK`: read `STATUS`; the comparison of bits 7:0 with 0 is the host's own (R89). -/
def checkLines : List HostAction := [rdReg .status]

end Sys2Proof.Machine
end

