-- ==== Sys2Proof/Syntax.lean ====
section
/-! DEFINITION. The command set: one constructor per row of spec/opcode_table.json (30_encoding.md R84), and the
command word's format (R80). No command has an operand field (R81): its operands are registers, by name (R82). -/

namespace Sys2Proof

/-- The six commands (R84). -/
inductive Instr where
  /-- `LDKEY`, the Key constructor (R131). -/
  | ldkey
  /-- `LDCTR`, `build` of the Counter/State Builder (R133). -/
  | ldctr
  /-- `CTRNEXT`, `next` of the Counter/State Builder (R135). -/
  | ctrnext
  /-- `BLOCK`, the Block Function (R112). -/
  | block
  /-- `KSGEN`, the Keystream Engine (R156). -/
  | ksgen
  /-- `XOR`, the Buffer XOR Engine (R172). -/
  | xor
deriving DecidableEq, Repr

/-- The two fields of a command word (R80): `op` is bits 7:0, `rsv` is bits 31:8. -/
structure CmdFields where
  op  : BitVec 8
  rsv : BitVec 24
deriving DecidableEq, Repr

end Sys2Proof
end

