-- ==== Sys2Proof/WellFormed.lean ====
section
/-! DEFINITION. What the spec calls a legal command word (30_encoding.md R83, R85), a well-formed command, and a host
line it defines (10_state.md R34, R38). -/

namespace Sys2Proof

/-- A command has no field (R81, R82), so every one of the six is well-formed. -/
abbrev Instr.WellFormed (i : Instr) : Prop :=
  match i with
  | .ldkey | .ldctr | .ctrnext | .block | .ksgen | .xor => True

/-- The legal command words: reserved bits 0 (R80) and an assigned `op` (R84). -/
abbrev CmdFields.WellFormed (f : CmdFields) : Prop :=
  f.rsv = 0 ∧ 1 ≤ f.op.toNat ∧ f.op.toNat ≤ 6

/-- The host lines the spec gives a meaning on every platform without device or register windows: whole aligned
words on the register interface (R34), addresses that exist in `Mem` (R38). -/
abbrev Machine.HostAction.WellFormed (cfg : Config) (a : Machine.HostAction) : Prop :=
  match a with
  | .wr off size _ => Machine.regAccessDefined off size = true
  | .rd off size   => Machine.regAccessDefined off size = true
  | .mw a bytes    => a + bytes.length ≤ 2 ^ cfg.aw.val
  | .mr a n        => a + n ≤ 2 ^ cfg.aw.val
  | .reset         => True

end Sys2Proof
end

