-- ==== Sys2Proof/Decode.lean ====
section
/-! DEFINITION. Decoding a command word, total on all 2^32 values (30_encoding.md R80, R83, R85), and the encoder
(R84). A command is one whole register write: there are no bytes to order and no length to tell (R80, R87). -/

namespace Sys2Proof

/-- Why a command word is `Illegal` (R85). Both reasons raise the one error `IllegalCommand` (R205). -/
inductive DecodeError where
  /-- some bit of 31:8 is 1 -/
  | reservedBits
  /-- `op` is 0x00 or 0x07 to 0xFF -/
  | unassignedOp
deriving DecidableEq, Repr

/-- The fields of a command word: `op` is bits 7:0, `rsv` bits 31:8 (R80). -/
def fieldsOf (w : Word) : CmdFields :=
  { op := w.extractLsb' 0 8, rsv := w.extractLsb' 8 24 }

/-- The command an `op` stands for (R84). -/
def commandOfOp (op : BitVec 8) : Option Instr :=
  match op.toNat with
  | 0x01 => some .ldkey
  | 0x02 => some .ldctr
  | 0x03 => some .ctrnext
  | 0x04 => some .block
  | 0x05 => some .ksgen
  | 0x06 => some .xor
  | _    => none

/-- `decode(w)` (R83). -/
def decode (w : Word) : Except DecodeError Instr :=
  if (fieldsOf w).rsv ≠ 0 then .error .reservedBits
  else match commandOfOp (fieldsOf w).op with
    | some i => .ok i
    | none   => .error .unassignedOp

/-- The word of each command (R84, column `word`). -/
def encode (i : Instr) : Word :=
  match i with
  | .ldkey   => 0x00000001
  | .ldctr   => 0x00000002
  | .ctrnext => 0x00000003
  | .block   => 0x00000004
  | .ksgen   => 0x00000005
  | .xor     => 0x00000006

/-- The command word whose low `nbits` bits are those of `w`, the bits above them 0. -/
def tableWord (nbits w : Nat) : Word := BitVec.ofNat 32 (w % 2 ^ nbits)

/-- The command the decoder reads from a word numbered as spec/opcode_table.json numbers it. -/
def decodeTableWord (nbits w : Nat) : Option Instr := (decode (tableWord nbits w)).toOption

end Sys2Proof
end

