-- ==== Sys2Proof/Machine/State.lean ====
section
/-! DEFINITION. The state of the machine (10_state.md R20), the reasons a step stops, and the state after reset
(R40). -/

namespace Sys2Proof.Machine

/-- Memory: the bytes that differ from what an unlisted address reads as, by strictly rising address. -/
abbrev Memory := List Host.Cell

/-- What stops the machine. -/
inductive Fault where
  /-- Raised by a host line `mw` or `mr` whose bytes do not all lie in the `2^AW` bytes that exist, and by one of no
  bytes at an address above `2^AW`: the spec is silent on both (R38; DESIGN CHOICE, log 7). Safe: the model stops where
  the spec gives no memory. -/
  | outsideAddressSpace
deriving DecidableEq, Repr

/-- What the model gives no meaning. -/
inductive Refusal where
  /-- Raised by `exec` for a command that has no meaning yet; no command is left so. Safe. -/
  | notModelled (mnemonic : String)
  /-- Raised by a host line `wr` or `rd` that is narrower than 32 bits or at an offset that is not a multiple of
  4: R34 and U6 say that a model refuses it. Safe. -/
  | registerAccess
  /-- Raised by a command whose region covers addresses at which the platform maps the block's own registers: R39 and
  U7 put it outside the spec. Raised also by a host line `mw` or `mr` over such addresses, on which the spec is silent
  (DESIGN CHOICE, log 17). Safe. -/
  | registerWindow
  /-- Raised by a command whose region covers device memory: R63 and U8 put it outside the spec. Raised also by a host
  line `mw` or `mr` over device memory, on which the spec is silent (DESIGN CHOICE, log 17). Safe. -/
  | deviceWindow
deriving DecidableEq, Repr

/-- The nine errors of a command step (R200). -/
inductive CmdError where
  | invalidKeyLength
  | invalidNonceLength
  | lengthMismatch
  | counterOverflow
  | illegalCommand
  | keyNotLoaded
  | counterNotLoaded
  | addressRange
  | memFault
deriving DecidableEq, Repr

/-- The state (R20). `KV`, `CV` and `BV` are the presence of `k`, `c` and `b` (R22, R42, D10). -/
structure State where
  /-- the platform's parameters, fixed for the run (R41, log 3) -/
  cfg    : Config
  /-- `K[0..7]`, absent while `KV = 0` (R22) -/
  k      : Option Key
  /-- `C[0..3]`, absent while `CV = 0` (R24) -/
  c      : Option Counter
  /-- `B[0..15]`, absent while `BV = 0` (R26) -/
  b      : Option WordBlock
  /-- `SRC` (R28) -/
  src    : Word
  /-- `SLEN` (R28) -/
  slen   : Word
  /-- `DST` (R28) -/
  dst    : Word
  /-- `DLEN` (R28) -/
  dlen   : Word
  /-- `ARG` (R28) -/
  arg    : Word
  /-- `ERR` (R32) -/
  err    : Byte
  /-- `Mem` (R38) -/
  mem    : Memory
  /-- the lines the host has still to execute (R88, R251, log 2) -/
  script : List HostAction
  /-- what the host's `rd` and `mr` lines saw, oldest first (R88, log 2) -/
  obs    : List Observation
deriving DecidableEq, Repr

/-- The state after reset (R40): nothing loaded, every register 0, on the standard platform. Memory lists nothing
(log 1) and the host has no line to run (log 2). -/
def State.reset : State :=
  { cfg := Config.standard, k := none, c := none, b := none,
    src := 0, slen := 0, dst := 0, dlen := 0, arg := 0, err := 0,
    mem := [], script := [], obs := [] }

def State.setK (s : State) (v : Option Key) : State := { s with k := v }
def State.setC (s : State) (v : Option Counter) : State := { s with c := v }
def State.setB (s : State) (v : Option WordBlock) : State := { s with b := v }
def State.setSrc (s : State) (v : Word) : State := { s with src := v }
def State.setSlen (s : State) (v : Word) : State := { s with slen := v }
def State.setDst (s : State) (v : Word) : State := { s with dst := v }
def State.setDlen (s : State) (v : Word) : State := { s with dlen := v }
def State.setArg (s : State) (v : Word) : State := { s with arg := v }
def State.setErr (s : State) (v : Byte) : State := { s with err := v }
def State.setMem (s : State) (v : Memory) : State := { s with mem := v }
def State.setScript (s : State) (v : List HostAction) : State := { s with script := v }
def State.setObs (s : State) (v : List Observation) : State := { s with obs := v }

end Sys2Proof.Machine
end

