-- ==== Sys2Proof/Machine/Flags.lean ====
section
/-! DEFINITION. The only flags of the machine: the three valid bits and the `ERR` field, as `STATUS` shows them
(10_state.md R27, R31, R43), and the error codes (60_exceptions.md R200). -/

namespace Sys2Proof.Machine

/-- `KV` (R27). -/
def State.kv (s : State) : Bool := s.k.isSome

/-- `CV` (R27). -/
def State.cv (s : State) : Bool := s.c.isSome

/-- `BV` (R27). -/
def State.bv (s : State) : Bool := s.b.isSome

/-- The code of an error (R200). -/
def CmdError.code (e : CmdError) : Byte :=
  match e with
  | .invalidKeyLength   => 1
  | .invalidNonceLength => 2
  | .lengthMismatch     => 3
  | .counterOverflow    => 4
  | .illegalCommand     => 5
  | .keyNotLoaded       => 6
  | .counterNotLoaded   => 7
  | .addressRange       => 8
  | .memFault           => 9

/-- `STATUS` as read (R31): `ERR` in bits 7:0, `KV` bit 8, `CV` bit 9, `BV` bit 10, bits 31:11 zero. -/
def statusWord (s : State) : Word :=
  0#21 ++ BitVec.ofBool s.bv ++ BitVec.ofBool s.cv ++ BitVec.ofBool s.kv ++ s.err

end Sys2Proof.Machine
end

