-- ==== Sys2Proof/Machine/Ops.lean ====
section
/-! DEFINITION. Byte order (20_memory.md R50), memory (R54, R55), how a command ends (60_exceptions.md R210,
00_scope.md R14) and what reset does (70_reset_and_hazards.md R240). -/

namespace Sys2Proof.Machine

/-- `le32(s[o:o+4])`: the byte at the lowest address is the least significant (R50). -/
def le32 (s : List Byte) (o : Nat) : Word :=
  BitVec.ofNat 32 ((s.getD o 0).toNat + 2 ^ 8 * (s.getD (o + 1) 0).toNat
    + 2 ^ 16 * (s.getD (o + 2) 0).toNat + 2 ^ 24 * (s.getD (o + 3) 0).toNat)

/-- `bytes32(w)`: the inverse, lowest address first (R50). -/
def bytes32 (w : Word) : List Byte :=
  [w.extractLsb' 0 8, w.extractLsb' 8 8, w.extractLsb' 16 8, w.extractLsb' 24 8]

/-- What an address that is not listed reads as (DESIGN CHOICE, log 1: spec/ section 8's programs take memory as
zero where nothing is written). -/
def Memory.unwritten : Byte := 0

/-- The canonical form: addresses strictly rise, and no cell holds what its address would read as anyway. -/
abbrev Memory.wf (m : Memory) : Prop :=
  m.Pairwise (fun x y => x.1 < y.1) ∧ ∀ x ∈ m, x.2 ≠ Memory.unwritten

/-- Every listed address lies below `n`. -/
abbrev Memory.below (n : Nat) (m : Memory) : Prop := ∀ x ∈ m, x.1 < n

/-- The byte at an address. -/
def Memory.readByte (m : Memory) (a : Nat) : Byte :=
  match m with
  | []     => Memory.unwritten
  | x :: m => if x.1 = a then x.2 else Memory.readByte m a

/-- The memory without its cell at `a`. -/
def Memory.erase (m : Memory) (a : Nat) : Memory := m.filter (fun x => x.1 != a)

/-- The memory with a cell put in its place by address. -/
def Memory.insertCell (m : Memory) (x : Host.Cell) : Memory :=
  match m with
  | []     => [x]
  | y :: m => if x.1 < y.1 then x :: y :: m else y :: Memory.insertCell m x

/-- Store one byte, keeping the canonical form. -/
def Memory.writeByte (m : Memory) (a : Nat) (v : Byte) : Memory :=
  if v = Memory.unwritten then Memory.erase m a
  else Memory.insertCell (Memory.erase m a) (a, v)

/-- `MemRead(a, n)`: byte `i` of the result is the byte at address `a + i` (R54). -/
def Memory.readBytes (m : Memory) (a n : Nat) : List Byte :=
  (List.range n).map (fun i => Memory.readByte m (a + i))

/-- `MemWrite(a, len(s), s)`: byte `s[i]` goes to address `a + i`, nothing else changes (R55). -/
def Memory.writeBytes (m : Memory) (a : Nat) (s : List Byte) : Memory :=
  match s with
  | []     => m
  | v :: s => Memory.writeBytes (Memory.writeByte m a v) (a + 1) s

/-- `raise E`: the command ends at once, `ERR` takes the code, and nothing else changes (R210). There is no handler
and so no return from one (R214): the next command simply overwrites `ERR`. -/
def raise (e : CmdError) (s : State) : Host.Outcome State Fault Refusal :=
  .next (s.setErr e.code)

/-- `ok`: the command ends with `ERR` 0 (R14). -/
def ok (s : State) : Host.Outcome State Fault Refusal :=
  .next (s.setErr 0)

/-- The reset event (R240): every register of the block takes its reset value; `Mem`, the platform and the host are
not touched. -/
def applyReset (s : State) : State :=
  { State.reset with cfg := s.cfg, mem := s.mem, script := s.script, obs := s.obs }

end Sys2Proof.Machine
end

