-- ==== Sys2Proof/Machine/Operands.lean ====
section
/-! DEFINITION. The operands of commands: the key, the counter and the regions named by the operand registers
(30_encoding.md R82), with the checks a command makes on them (60_exceptions.md R212). Each check is a continuation,
so that a command's meaning reads line by line like its pseudocode. -/

namespace Sys2Proof.Machine

/-- Do the span and the region of `n` bytes from `a` share an address? -/
def Span.meets (sp : Span) (a n : Nat) : Bool :=
  decide (max sp.base a < min (sp.base + sp.size) (a + n))

/-- Is a region in range (R56)? A start address at or above `2^AW` never is (R28, log 6). -/
def inRange (cfg : Config) (a : Word) (n : Nat) : Bool :=
  decide (a.toNat < 2 ^ cfg.aw.val ∧ a.toNat + n ≤ 2 ^ cfg.aw.val)

/-- Where the platform refuses accesses of a kind (R57). -/
def denied (cfg : Config) (kind : AccessKind) : List Span :=
  match kind with
  | .read  => cfg.denyRead
  | .write => cfg.denyWrite

/-- `MemOK(kind, a, n)` (R57): the platform refuses none of the `n` bytes from `a`. -/
def memOK (cfg : Config) (kind : AccessKind) (a n : Nat) : Bool :=
  (denied cfg kind).all (fun sp => !Span.meets sp a n)

/-- Does the region cover an address of the block's own registers (R39, U7)? -/
def hitsRegisters (cfg : Config) (a n : Nat) : Bool :=
  cfg.regWindows.any (fun sp => Span.meets sp a n)

/-- Does the region cover device memory (R63, U8)? -/
def hitsDevice (cfg : Config) (a n : Nat) : Bool :=
  cfg.devices.any (fun sp => Span.meets sp a n)

/-- The region is plain memory, as R63 assumes. -/
def isPlain (cfg : Config) (a n : Nat) : Bool :=
  !hitsRegisters cfg a n && !hitsDevice cfg a n

/-- `if not p then raise e`. -/
def require (p : Bool) (e : CmdError) (s : State) (go : Host.Outcome State Fault Refusal) :
    Host.Outcome State Fault Refusal :=
  if p then go else raise e s

/-- `if KV = 0 then raise KeyNotLoaded`; then `K` is at hand (R206). -/
def withKey (s : State) (go : Key → Host.Outcome State Fault Refusal) : Host.Outcome State Fault Refusal :=
  match s.k with
  | none   => raise .keyNotLoaded s
  | some k => go k

/-- `if CV = 0 then raise CounterNotLoaded`; then `C` is at hand (R207). -/
def withCounter (s : State) (go : Counter → Host.Outcome State Fault Refusal) : Host.Outcome State Fault Refusal :=
  match s.c with
  | none   => raise .counterNotLoaded s
  | some cv => go cv

/-- A region outside plain memory is refused by name: a command's (U7, U8, log 5), a host line's by the model's choice
(log 17). -/
def requirePlain (cfg : Config) (a n : Nat) (go : Host.Outcome State Fault Refusal) :
    Host.Outcome State Fault Refusal :=
  if hitsRegisters cfg a n then .refused .registerWindow
  else if hitsDevice cfg a n then .refused .deviceWindow
  else go

end Sys2Proof.Machine
end

