-- ==== Sys2Proof/Machine/BlockFunction.lean ====
section
/-! DEFINITION. The component `chacha20_block_function` (40_block_function.md): the Block Function and the command
`BLOCK`. -/

namespace Sys2Proof.Machine

/-- `rotl32(x, n)` for `0 < n < 32`: rotation to the left (R102). -/
def rotl32 (x : Word) (n : Nat) : Word := (x <<< n) ||| (x >>> (32 - n))

/-- The quarter round: twelve steps, each on the values the earlier ones produced (R103). -/
def quarterRound (a b c d : Word) : Word × Word × Word × Word :=
  let a := a + b
  let d := rotl32 (d ^^^ a) 16
  let c := c + d
  let b := rotl32 (b ^^^ c) 12
  let a := a + b
  let d := rotl32 (d ^^^ a) 8
  let c := c + d
  let b := rotl32 (b ^^^ c) 7
  (a, b, c, d)

/-- `QRat(x, i, j, k, l)`: the quarter round on four words of the state (R104). -/
def quarterRoundAt (x : WordBlock) (i j k l : Fin 16) : WordBlock :=
  match quarterRound x[i] x[j] x[k] x[l] with
  | (a, b, c, d) => (((x.set i a).set j b).set k c).set l d

/-- `ColumnRound(x)` (R105). -/
def columnRound (x : WordBlock) : WordBlock :=
  let x := quarterRoundAt x 0 4 8 12
  let x := quarterRoundAt x 1 5 9 13
  let x := quarterRoundAt x 2 6 10 14
  quarterRoundAt x 3 7 11 15

/-- `DiagonalRound(x)` (R106). -/
def diagonalRound (x : WordBlock) : WordBlock :=
  let x := quarterRoundAt x 0 5 10 15
  let x := quarterRoundAt x 1 6 11 12
  let x := quarterRoundAt x 2 7 8 13
  quarterRoundAt x 3 4 9 14

/-- `DoubleRound(x)`: the column round first (R107). -/
def doubleRound (x : WordBlock) : WordBlock := diagonalRound (columnRound x)

/-- `n` double rounds. -/
def doubleRounds (n : Nat) (x : WordBlock) : WordBlock :=
  match n with
  | 0     => x
  | n + 1 => doubleRounds n (doubleRound x)

/-- `InitState(K, Cv)`: four constants, the key, the counter (R101). -/
def initState (k : Key) (cv : Counter) : WordBlock :=
  #v[0x61707865, 0x3320646e, 0x79622d32, 0x6b206574,
     k[0], k[1], k[2], k[3], k[4], k[5], k[6], k[7],
     cv[0], cv[1], cv[2], cv[3]]

/-- `BlockWords(K, Cv)`: ten double rounds and the feed-forward (R109). -/
def blockWords (k : Key) (cv : Counter) : WordBlock :=
  Vector.zipWith (· + ·) (doubleRounds 10 (initState k cv)) (initState k cv)

/-- `Block(K, Cv)`: the sixteen words as little-endian bytes (R110). -/
def block (k : Key) (cv : Counter) : List Byte :=
  (blockWords k cv).toList.flatMap bytes32

/-- `BLOCK` (R112). -/
def execBlock (s : State) : Host.Outcome State Fault Refusal :=
  withKey s fun k =>
  withCounter s fun cv =>
  ok (s.setB (some (blockWords k cv)))

end Sys2Proof.Machine
end

