-- ==== Sys2Proof/Machine/Keystream.lean ====
section
/-! DEFINITION. The component `keystream_generator` (42_keystream_generator.md): the keystream, the overflow
condition, and the command `KSGEN`. -/

namespace Sys2Proof.Machine

/-- `CounterAt(Cv, j)` for `j < 2^32 - Cv[0]` (R150). -/
def counterAt (cv : Counter) (j : Nat) : Counter :=
  cv.set 0 (BitVec.ofNat 32 (cv[0].toNat + j))

/-- `BlocksNeeded(n)` (R151). -/
def blocksNeeded (n : Nat) : Nat := (n + 63) / 64

/-- A keystream of `n` bytes from `cv` exists: `BlocksNeeded(n) <= 2^32 - Cv[0]` in the natural numbers (R152). -/
def counterRoom (cv : Counter) (n : Nat) : Bool :=
  decide (blocksNeeded n ≤ 2 ^ 32 - cv[0].toNat)

/-- `Keystream(K, Cv, n)`: the first `n` bytes of the blocks at successive counters (R153). The working counter is
never advanced past the last block (R155). -/
def keystream (k : Key) (cv : Counter) (n : Nat) : List Byte :=
  ((List.range (blocksNeeded n)).flatMap (fun j => block k (counterAt cv j))).take n

/-- `KSGEN` (R156). -/
def execKsgen (s : State) : Host.Outcome State Fault Refusal :=
  withKey s fun k =>
  withCounter s fun cv =>
  require (counterRoom cv s.dlen.toNat) .counterOverflow s <|
  require (inRange s.cfg s.dst s.dlen.toNat) .addressRange s <|
  require (memOK s.cfg .write s.dst.toNat s.dlen.toNat) .memFault s <|
  requirePlain s.cfg s.dst.toNat s.dlen.toNat <|
  ok (s.setMem (s.mem.writeBytes s.dst.toNat (keystream k cv s.dlen.toNat)))

end Sys2Proof.Machine
end

