-- ==== Sys2Proof/Machine/Loader.lean ====
section
/-! DEFINITION. The component `state_counter_loader` (41_state_counter_loader.md): the commands `LDKEY`, `LDCTR` and
`CTRNEXT`. -/

namespace Sys2Proof.Machine

/-- `KeyWords(s)` of a 32-byte string (R130). -/
def keyWords (s : List Byte) : Key :=
  #v[le32 s 0, le32 s 4, le32 s 8, le32 s 12, le32 s 16, le32 s 20, le32 s 24, le32 s 28]

/-- `Build(nonce, ctr)` of a 12-byte string (R132). -/
def build (nonce : List Byte) (ctr : Word) : Counter :=
  #v[ctr, le32 nonce 0, le32 nonce 4, le32 nonce 8]

/-- `Next(Cv)`: `none` is `CounterOverflow` (R134). -/
def nextCounter (cv : Counter) : Option Counter :=
  if cv[0] = 0xFFFFFFFF then none else some (cv.set 0 (cv[0] + 1))

/-- `LDKEY` (R131). -/
def execLdkey (s : State) : Host.Outcome State Fault Refusal :=
  require (s.slen == 32) .invalidKeyLength s <|
  require (inRange s.cfg s.src 32) .addressRange s <|
  require (memOK s.cfg .read s.src.toNat 32) .memFault s <|
  requirePlain s.cfg s.src.toNat 32 <|
  ok (s.setK (some (keyWords (s.mem.readBytes s.src.toNat 32))))

/-- `LDCTR` (R133). -/
def execLdctr (s : State) : Host.Outcome State Fault Refusal :=
  require (s.slen == 12) .invalidNonceLength s <|
  require (inRange s.cfg s.src 12) .addressRange s <|
  require (memOK s.cfg .read s.src.toNat 12) .memFault s <|
  requirePlain s.cfg s.src.toNat 12 <|
  ok (s.setC (some (build (s.mem.readBytes s.src.toNat 12) s.arg)))

/-- `CTRNEXT` (R135). -/
def execCtrnext (s : State) : Host.Outcome State Fault Refusal :=
  withCounter s fun cv =>
  match nextCounter cv with
  | none    => raise .counterOverflow s
  | some next => ok (s.setC (some next))

end Sys2Proof.Machine
end

