-- ==== Sys2Proof/Machine/XorEngine.lean ====
section
/-! DEFINITION. The component `buffer_xor_engine` (43_buffer_xor_engine.md): the command `XOR` as one snapshot
transition (R171, R172), and the reference chunk sequence (R174), which is no part of the machine and stands here so
that its agreement with the command can be stated (R176, R178). -/

namespace Sys2Proof.Machine

/-- `XorBytes(K, Cv, s)` (R170). -/
def xorBytes (k : Key) (cv : Counter) (s : List Byte) : List Byte :=
  List.zipWith (· ^^^ ·) s (keystream k cv s.length)

/-- `XOR` (R172). -/
def execXor (s : State) : Host.Outcome State Fault Refusal :=
  withKey s fun k =>
  withCounter s fun cv =>
  require (s.slen == s.dlen) .lengthMismatch s <|
  require (counterRoom cv s.slen.toNat) .counterOverflow s <|
  require (inRange s.cfg s.src s.slen.toNat && inRange s.cfg s.dst s.slen.toNat) .addressRange s <|
  require (memOK s.cfg .read s.src.toNat s.slen.toNat && memOK s.cfg .write s.dst.toNat s.slen.toNat) .memFault s <|
  requirePlain s.cfg s.src.toNat s.slen.toNat <|
  requirePlain s.cfg s.dst.toNat s.slen.toNat <|
  ok (s.setMem (s.mem.writeBytes s.dst.toNat (xorBytes k cv (s.mem.readBytes s.src.toNat s.slen.toNat))))

/-- The number of chunks of a request (R174). -/
def chunkCount (chunk n : Nat) : Nat := (n + (chunk - 1)) / chunk

/-- One chunk: copy its input, make its keystream, write its output (R174, steps 1 to 3). -/
def chunkStep (k : Key) (cv : Counter) (src dst n chunk : Nat) (m : Memory) (j : Nat) : Memory :=
  let off := chunk * j
  let len := min chunk (n - off)
  let t := m.readBytes (src + off) len
  let ks := keystream k (counterAt cv (off / 64)) len
  m.writeBytes (dst + off) (List.zipWith (· ^^^ ·) t ks)

/-- The chunks in ascending order of offset: the document's own procedure (R175). -/
def ascendingXor (k : Key) (cv : Counter) (src dst n chunk : Nat) (m : Memory) : Memory :=
  (List.range (chunkCount chunk n)).foldl (chunkStep k cv src dst n chunk) m

/-- The reference sequence: descending when the output starts inside the input region above its start (R174). -/
def referenceXor (k : Key) (cv : Counter) (src dst n chunk : Nat) (m : Memory) : Memory :=
  if src < dst ∧ dst < src + n then
    (List.range (chunkCount chunk n)).reverse.foldl (chunkStep k cv src dst n chunk) m
  else ascendingXor k cv src dst n chunk m

end Sys2Proof.Machine
end

