-- ==== Sys2Proof/Machine/Dispatch.lean ====
section
/-! DEFINITION. One arm per command (30_encoding.md R84). -/

namespace Sys2Proof.Machine

def exec (i : Instr) (s : State) : Host.Outcome State Fault Refusal :=
  match i with
  | .ldkey => Sys2Proof.Machine.execLdkey s
  | .ldctr => Sys2Proof.Machine.execLdctr s
  | .ctrnext => Sys2Proof.Machine.execCtrnext s
  | .block => Sys2Proof.Machine.execBlock s
  | .ksgen => Sys2Proof.Machine.execKsgen s
  | .xor => Sys2Proof.Machine.execXor s

end Sys2Proof.Machine
end

