-- ==== Sys2Proof/Machine/HostPort.lean ====
section
/-! DEFINITION. The register interface and the host's lines (10_state.md R28 to R34, 30_encoding.md R88), the one
command step a write to `CMD` causes (R29), and where the next command is placed. -/

namespace Sys2Proof.Machine

/-- A register read (R33, R34): it changes nothing; `CMD` and the reserved offsets read 0, and so do `C` and `B`
while they are not valid (R24, R26). -/
def readReg (s : State) (off : Nat) : Word :=
  match regAt off with
  | some .cmd     => 0
  | some .status  => statusWord s
  | some .src     => s.src
  | some .slen    => s.slen
  | some .dst     => s.dst
  | some .dlen    => s.dlen
  | some .arg     => s.arg
  | some (.ctr i) => (s.c.map (fun cv => cv[i])).getD 0
  | some (.blk i) => (s.b.map (fun b => b[i])).getD 0
  | none          => 0

/-- The command step (R29): decode the word, then perform the command or raise `IllegalCommand` (R205). -/
def command (w : Word) (s : State) : Host.Outcome State Fault Refusal :=
  match decode w with
  | .ok i    => exec i s
  | .error _ => raise .illegalCommand s

/-- A register write (R28, R29, R34): operand registers store, `CMD` runs a command, every other offset ignores the
write. -/
def writeReg (s : State) (off : Nat) (v : Word) : Host.Outcome State Fault Refusal :=
  match regAt off with
  | some .cmd     => command v s
  | some .src     => .next (s.setSrc v)
  | some .slen    => .next (s.setSlen v)
  | some .dst     => .next (s.setDst v)
  | some .dlen    => .next (s.setDlen v)
  | some .arg     => .next (s.setArg v)
  | some .status  => .next s
  | some (.ctr _) => .next s
  | some (.blk _) => .next s
  | none          => .next s

/-- A direct access of the host to `n` bytes of `Mem` from `a` (R88). Where the spec is silent on it the model stops,
by its own choice: a line that ends above `2^AW`, one of no bytes above it included, faults (DESIGN CHOICE, log 7), and
a line over a register window or device memory is refused (DESIGN CHOICE, log 17; R39, R63, U7 and U8 speak of a
command's region). `MemOK` concerns the engine's port only (DEDUCED from R57, log 9). -/
def hostMem (s : State) (a n : Nat) (go : Host.Outcome State Fault Refusal) : Host.Outcome State Fault Refusal :=
  if a + n ≤ 2 ^ s.cfg.aw.val then requirePlain s.cfg a n go
  else .fault .outsideAddressSpace

/-- One line of the host's script (R88), or the reset event (R240). -/
def perform (act : HostAction) (s : State) : Host.Outcome State Fault Refusal :=
  match act with
  | .wr off size v =>
    if regAccessDefined off size then writeReg s off v else .refused .registerAccess
  | .rd off size =>
    if regAccessDefined off size then .next (s.setObs (s.obs ++ [.reg off (readReg s off)]))
    else .refused .registerAccess
  | .mw a bytes => hostMem s a bytes.length (.next (s.setMem (s.mem.writeBytes a bytes)))
  | .mr a n => hostMem s a n (.next (s.setObs (s.obs ++ [.mem a (s.mem.readBytes a n)])))
  | .reset => .next (applyReset s)

/-- The host's next line is performed. With no line left nothing happens: the block does nothing until the host
writes `CMD` (R240, R251, log 8). -/
def hostStep (s : State) : Host.Outcome State Fault Refusal :=
  match s.script with
  | []          => .next s
  | act :: rest => perform act (s.setScript rest)

/-- The host's very next line becomes the write of a command word to `CMD` (R29, R80, log 10). -/
def placeCommand (s : State) (w : Word) : State := s.setScript (wrCmd w :: s.script)

end Sys2Proof.Machine
end

