-- ==== Sys2Proof/Machine/Step.lean ====
section
/-! DEFINITION. The step: one line of the host's script, a whole command being one line (00_scope.md R10,
70_reset_and_hazards.md R251). -/

namespace Sys2Proof.Machine

/-- One step of the machine. -/
def step (s : State) : Host.Outcome State Fault Refusal := hostStep s

/-- The state in which the very next step runs the command whose word has the low `nbits` bits of `w` (log 10). -/
def State.withFetchWord (s : State) (nbits w : Nat) : State := placeCommand s (tableWord nbits w)

end Sys2Proof.Machine
end

