-- ==== Sys2Proof/Safety.lean ====
section
/-! DEFINITION. The terms the claims use: the invariant of the machine, what two states share, and the bytes a command
may read and write. -/

namespace Sys2Proof.Machine

/-- The invariant: memory is canonical and lists only addresses that exist (10_state.md R38), and `ERR` is one of the
codes 0 to 9 (R32, R42 (d)). -/
abbrev State.Inv (s : State) : Prop :=
  s.mem.wf ∧ Memory.below (2 ^ s.cfg.aw.val) s.mem ∧ s.err.toNat ≤ 9

/-- The five operand registers agree (R28). -/
abbrev SameOperands (s t : State) : Prop :=
  t.src = s.src ∧ t.slen = s.slen ∧ t.dst = s.dst ∧ t.dlen = s.dlen ∧ t.arg = s.arg

/-- The platform and the host's own side agree (R41). -/
abbrev SameHostSide (s t : State) : Prop :=
  t.cfg = s.cfg ∧ t.script = s.script ∧ t.obs = s.obs

/-- The bytes a command may read from `Mem` (20_memory.md R60). -/
def readSpan (i : Instr) (s : State) : Span :=
  match i with
  | .ldkey   => ⟨s.src.toNat, 32⟩
  | .ldctr   => ⟨s.src.toNat, 12⟩
  | .ctrnext => ⟨0, 0⟩
  | .block   => ⟨0, 0⟩
  | .ksgen   => ⟨0, 0⟩
  | .xor     => ⟨s.src.toNat, s.slen.toNat⟩

/-- The bytes a command may write to `Mem` (20_memory.md R60). -/
def writeSpan (i : Instr) (s : State) : Span :=
  match i with
  | .ldkey   => ⟨0, 0⟩
  | .ldctr   => ⟨0, 0⟩
  | .ctrnext => ⟨0, 0⟩
  | .block   => ⟨0, 0⟩
  | .ksgen   => ⟨s.dst.toNat, s.dlen.toNat⟩
  | .xor     => ⟨s.dst.toNat, s.dlen.toNat⟩

/-- Two spans share no address. -/
def Span.disjoint (p q : Span) : Prop :=
  ∀ x, ¬((p.base ≤ x ∧ x < p.base + p.size) ∧ (q.base ≤ x ∧ x < q.base + q.size))

end Sys2Proof.Machine
end

