-- ==== Sys2Proof/Certificates/Slice0/Obligations.lean ====
section
/-! DEFINITION. The statements for the provers, from the numbered rules of spec/. -/

open Sys2Proof Sys2Proof.Machine

/-! Encoding and the step -/

/-- R84, with illegal words of R85: the command words as the spec writes them out. -/
def Obligations.CommandWordsDecode : Prop :=
  decode 0x00000001 = .ok .ldkey ∧ decode 0x00000002 = .ok .ldctr ∧ decode 0x00000003 = .ok .ctrnext ∧
  decode 0x00000004 = .ok .block ∧ decode 0x00000005 = .ok .ksgen ∧ decode 0x00000006 = .ok .xor ∧
  decode 0x00000000 = .error .unassignedOp ∧ decode 0x00000007 = .error .unassignedOp ∧
  decode 0x000000FF = .error .unassignedOp ∧ decode 0x00000106 = .error .reservedBits ∧
  decode 0x80000001 = .error .reservedBits

/-- R83: decoding gives a command exactly on that command's one word, so decode of encode is the command, no two
commands share a word, and every other word is illegal. -/
def Obligations.DecodeAndEncodeAgree : Prop :=
  ∀ (w : Word) (i : Instr), i.WellFormed → (decode w = .ok i ↔ w = encode i)

/-- R85, R205: any other word written to `CMD` raises `IllegalCommand` and changes nothing but `ERR`. -/
def Obligations.IllegalWordRaisesOnlyErr : Prop :=
  ∀ (s : State) (w : Word) (rest : List HostAction), s.script = wrCmd w :: rest →
    w ∉ ([1, 2, 3, 4, 5, 6] : List Word) →
    step s = .next ((s.setScript rest).setErr 5)

/-- R29: a write of a command word to `CMD` is exactly that command's step; the host's line is consumed. -/
def Obligations.StepRunsDecodedCommand : Prop :=
  ∀ (s : State) (w : Word) (i : Instr) (rest : List HostAction), s.script = wrCmd w :: rest →
    decode w = .ok i → i.WellFormed → step s = exec i (s.setScript rest)

/-- R251, R41: a step consumes exactly one line of the script, keeps the platform, and only adds observations. That a
step with no line left stays where it is, is the model's choice (log 8). -/
def Obligations.StepConsumesOneLine : Prop :=
  ∀ s t : State, step s = .next t → t.script = s.script.tail ∧ t.cfg = s.cfg ∧ s.obs <+: t.obs

/-! The meaning of each command: its pseudocode, on plain memory (R63) -/

/-- R131. -/
def Obligations.LdkeyMeaning : Prop :=
  decode 0x00000001 = .ok .ldkey ∧ ∀ s : State, isPlain s.cfg s.src.toNat 32 = true →
    exec .ldkey s =
      if s.slen ≠ 32 then .next (s.setErr 1)
      else if s.src.toNat + 32 > 2 ^ s.cfg.aw.val then .next (s.setErr 8)
      else if memOK s.cfg .read s.src.toNat 32 = false then .next (s.setErr 9)
      else .next ((s.setK (some (keyWords (s.mem.readBytes s.src.toNat 32)))).setErr 0)

/-- R133. -/
def Obligations.LdctrMeaning : Prop :=
  decode 0x00000002 = .ok .ldctr ∧ ∀ s : State, isPlain s.cfg s.src.toNat 12 = true →
    exec .ldctr s =
      if s.slen ≠ 12 then .next (s.setErr 2)
      else if s.src.toNat + 12 > 2 ^ s.cfg.aw.val then .next (s.setErr 8)
      else if memOK s.cfg .read s.src.toNat 12 = false then .next (s.setErr 9)
      else .next ((s.setC (some (build (s.mem.readBytes s.src.toNat 12) s.arg))).setErr 0)

/-- R135. -/
def Obligations.CtrnextMeaning : Prop :=
  decode 0x00000003 = .ok .ctrnext ∧ ∀ s : State,
    exec .ctrnext s =
      match s.c with
      | none    => .next (s.setErr 7)
      | some cv =>
        if cv[0] = 0xFFFFFFFF then .next (s.setErr 4)
        else .next ((s.setC (some #v[cv[0] + 1, cv[1], cv[2], cv[3]])).setErr 0)

/-- R112. -/
def Obligations.BlockMeaning : Prop :=
  decode 0x00000004 = .ok .block ∧ ∀ s : State,
    exec .block s =
      match s.k, s.c with
      | none, _         => .next (s.setErr 6)
      | some _, none    => .next (s.setErr 7)
      | some k, some cv => .next ((s.setB (some (blockWords k cv))).setErr 0)

/-- R156, but for an empty region at address `2^AW` itself (log 6; there HighAddressBitsRaiseAddressRange). -/
def Obligations.KsgenMeaning : Prop :=
  decode 0x00000005 = .ok .ksgen ∧
  ∀ s : State, ¬(s.dlen = 0 ∧ s.dst.toNat = 2 ^ s.cfg.aw.val) → isPlain s.cfg s.dst.toNat s.dlen.toNat = true →
    exec .ksgen s =
      match s.k, s.c with
      | none, _         => .next (s.setErr 6)
      | some _, none    => .next (s.setErr 7)
      | some k, some cv =>
        if blocksNeeded s.dlen.toNat > 2 ^ 32 - cv[0].toNat then .next (s.setErr 4)
        else if s.dst.toNat + s.dlen.toNat > 2 ^ s.cfg.aw.val then .next (s.setErr 8)
        else if memOK s.cfg .write s.dst.toNat s.dlen.toNat = false then .next (s.setErr 9)
        else .next ((s.setMem (s.mem.writeBytes s.dst.toNat (keystream k cv s.dlen.toNat))).setErr 0)

/-- R172, but for an empty region at address `2^AW` itself (log 6; there HighAddressBitsRaiseAddressRange). -/
def Obligations.XorMeaning : Prop :=
  decode 0x00000006 = .ok .xor ∧
  ∀ s : State, ¬(s.slen = 0 ∧ (s.src.toNat = 2 ^ s.cfg.aw.val ∨ s.dst.toNat = 2 ^ s.cfg.aw.val)) →
    isPlain s.cfg s.src.toNat s.slen.toNat = true → isPlain s.cfg s.dst.toNat s.slen.toNat = true →
    exec .xor s =
      match s.k, s.c with
      | none, _         => .next (s.setErr 6)
      | some _, none    => .next (s.setErr 7)
      | some k, some cv =>
        if s.slen ≠ s.dlen then .next (s.setErr 3)
        else if blocksNeeded s.slen.toNat > 2 ^ 32 - cv[0].toNat then .next (s.setErr 4)
        else if s.src.toNat + s.slen.toNat > 2 ^ s.cfg.aw.val ∨ s.dst.toNat + s.slen.toNat > 2 ^ s.cfg.aw.val then
          .next (s.setErr 8)
        else if memOK s.cfg .read s.src.toNat s.slen.toNat = false ∨
            memOK s.cfg .write s.dst.toNat s.slen.toNat = false then .next (s.setErr 9)
        else .next ((s.setMem (s.mem.writeBytes s.dst.toNat
          (xorBytes k cv (s.mem.readBytes s.src.toNat s.slen.toNat)))).setErr 0)

/-- R28 with U13: a start address at or above `2^AW` raises `AddressRange`, whatever the length. Against the letter of
R56's formula at length 0 this is the model's reading (log 6). -/
def Obligations.HighAddressBitsRaiseAddressRange : Prop :=
  (∀ s : State, s.slen = 32 → 2 ^ s.cfg.aw.val ≤ s.src.toNat → exec .ldkey s = .next (s.setErr 8)) ∧
  (∀ s : State, s.slen = 12 → 2 ^ s.cfg.aw.val ≤ s.src.toNat → exec .ldctr s = .next (s.setErr 8)) ∧
  (∀ (s : State) (k : Key) (cv : Counter), s.k = some k → s.c = some cv →
    blocksNeeded s.dlen.toNat ≤ 2 ^ 32 - cv[0].toNat → 2 ^ s.cfg.aw.val ≤ s.dst.toNat →
    exec .ksgen s = .next (s.setErr 8)) ∧
  (∀ (s : State) (k : Key) (cv : Counter), s.k = some k → s.c = some cv → s.slen = s.dlen →
    blocksNeeded s.slen.toNat ≤ 2 ^ 32 - cv[0].toNat →
    (2 ^ s.cfg.aw.val ≤ s.src.toNat ∨ 2 ^ s.cfg.aw.val ≤ s.dst.toNat) →
    exec .xor s = .next (s.setErr 8))

/-- R251 with R39, R63, U7, U8: a command always answers a next state, unless a region of it covers the block's own
registers or device memory, and then it is refused by name; one that succeeds touched plain memory only (log 5). -/
def Obligations.CommandsRefuseOnlyWindows : Prop :=
  ∀ (i : Instr) (s : State),
    ((∃ t, exec i s = .next t) ∨
      (exec i s = .refused .registerWindow ∧
        (hitsRegisters s.cfg (readSpan i s).base (readSpan i s).size = true ∨
          hitsRegisters s.cfg (writeSpan i s).base (writeSpan i s).size = true)) ∨
      (exec i s = .refused .deviceWindow ∧
        (hitsDevice s.cfg (readSpan i s).base (readSpan i s).size = true ∨
          hitsDevice s.cfg (writeSpan i s).base (writeSpan i s).size = true))) ∧
    (∀ t, exec i s = .next t → t.err = 0 →
      isPlain s.cfg (readSpan i s).base (readSpan i s).size = true ∧
      isPlain s.cfg (writeSpan i s).base (writeSpan i s).size = true)

/-! The result of each command, byte by byte and word by word; where it completes -/

/-- R130: `LDKEY` completes, and word `i` of the key is bytes `4i .. 4i+3`, the lowest address least significant. -/
def Obligations.LdkeyLoadsLittleEndianKey : Prop :=
  ∀ s : State, s.slen = 32 → s.src.toNat + 32 ≤ 2 ^ s.cfg.aw.val →
    memOK s.cfg .read s.src.toNat 32 = true → isPlain s.cfg s.src.toNat 32 = true →
    ∃ k : Key, exec .ldkey s = .next ((s.setK (some k)).setErr 0) ∧
      ∀ i : Fin 8, k[i].toNat =
        (s.mem.readByte (s.src.toNat + 4 * i.val)).toNat + 2 ^ 8 * (s.mem.readByte (s.src.toNat + 4 * i.val + 1)).toNat
        + 2 ^ 16 * (s.mem.readByte (s.src.toNat + 4 * i.val + 2)).toNat
        + 2 ^ 24 * (s.mem.readByte (s.src.toNat + 4 * i.val + 3)).toNat

/-- R132: `LDCTR` completes; word 0 of the counter is `ARG`, word `i+1` is nonce bytes `4i .. 4i+3`, little-endian. -/
def Obligations.LdctrBuildsCounter : Prop :=
  ∀ s : State, s.slen = 12 → s.src.toNat + 12 ≤ 2 ^ s.cfg.aw.val →
    memOK s.cfg .read s.src.toNat 12 = true → isPlain s.cfg s.src.toNat 12 = true →
    ∃ cv : Counter, exec .ldctr s = .next ((s.setC (some cv)).setErr 0) ∧ cv[0] = s.arg ∧
      ∀ i : Fin 3, cv[i.val + 1].toNat =
        (s.mem.readByte (s.src.toNat + 4 * i.val)).toNat + 2 ^ 8 * (s.mem.readByte (s.src.toNat + 4 * i.val + 1)).toNat
        + 2 ^ 16 * (s.mem.readByte (s.src.toNat + 4 * i.val + 2)).toNat
        + 2 ^ 24 * (s.mem.readByte (s.src.toNat + 4 * i.val + 3)).toNat

/-- R134: `CTRNEXT` adds 1 to word 0 in the natural numbers and copies the nonce words, with no key needed; at
`0xFFFFFFFF` it raises `CounterOverflow` and leaves the counter. -/
def Obligations.CtrnextAdvancesBlockCounter : Prop :=
  ∀ (s : State) (cv : Counter), s.c = some cv →
    (cv[0].toNat < 0xFFFFFFFF → ∃ next : Counter, exec .ctrnext s = .next ((s.setC (some next)).setErr 0) ∧
      next[0].toNat = cv[0].toNat + 1 ∧ next[1] = cv[1] ∧ next[2] = cv[2] ∧ next[3] = cv[3]) ∧
    (cv[0].toNat = 0xFFFFFFFF → exec .ctrnext s = .next (s.setErr 4))

/-- R109: `BLOCK` completes at every counter value; the host reads at offset `0x40 + 4i` word `i` of the state after
ten double rounds plus word `i` of the initial state. What the initial state holds (R101), and which quarter rounds a
column round, a diagonal round and a double round are (R105, R106, R107), is said beside it. -/
def Obligations.BlockDeliversFeedForward : Prop :=
  (∀ (s : State) (k : Key) (cv : Counter), s.k = some k → s.c = some cv →
    ∃ b : WordBlock, exec .block s = .next ((s.setB (some b)).setErr 0) ∧
      ∀ i : Fin 16, readReg ((s.setB (some b)).setErr 0) (0x40 + 4 * i.val) =
        (doubleRound^[10] (initState k cv))[i] + (initState k cv)[i]) ∧
  (∀ (k : Key) (cv : Counter),
    (initState k cv)[0] = 0x61707865 ∧ (initState k cv)[1] = 0x3320646e ∧
    (initState k cv)[2] = 0x79622d32 ∧ (initState k cv)[3] = 0x6b206574 ∧
    (∀ i : Fin 8, (initState k cv)[4 + i.val] = k[i]) ∧ (∀ i : Fin 4, (initState k cv)[12 + i.val] = cv[i])) ∧
  (∀ x : WordBlock,
    columnRound x = quarterRoundAt (quarterRoundAt (quarterRoundAt (quarterRoundAt x
      0 4 8 12) 1 5 9 13) 2 6 10 14) 3 7 11 15 ∧
    diagonalRound x = quarterRoundAt (quarterRoundAt (quarterRoundAt (quarterRoundAt x
      0 5 10 15) 1 6 11 12) 2 7 8 13) 3 4 9 14 ∧
    doubleRound x = diagonalRound (columnRound x))

/-- R153: `KSGEN` completes; byte `i` of the output region is byte `i mod 64` of the block at the counter advanced by
`i div 64`; every other byte of memory and everything else is as before. -/
def Obligations.KsgenWritesKeystreamBytes : Prop :=
  ∀ (s : State) (k : Key) (cv : Counter), s.k = some k → s.c = some cv →
    blocksNeeded s.dlen.toNat ≤ 2 ^ 32 - cv[0].toNat → s.dst.toNat < 2 ^ s.cfg.aw.val →
    s.dst.toNat + s.dlen.toNat ≤ 2 ^ s.cfg.aw.val → memOK s.cfg .write s.dst.toNat s.dlen.toNat = true →
    isPlain s.cfg s.dst.toNat s.dlen.toNat = true →
    ∃ m : Memory, exec .ksgen s = .next ((s.setMem m).setErr 0) ∧
      (∀ i, i < s.dlen.toNat →
        some (m.readByte (s.dst.toNat + i)) = (block k (counterAt cv (i / 64)))[i % 64]?) ∧
      (∀ a, (a < s.dst.toNat ∨ s.dst.toNat + s.dlen.toNat ≤ a) → m.readByte a = s.mem.readByte a)

/-- R171: `XOR` completes in every geometry; byte `i` of the output region is byte `i` of the input region AS IT WAS
BEFORE the command, XORed with keystream byte `i`; every other byte of memory and everything else is as before. -/
def Obligations.XorMeetsAliasingContract : Prop :=
  ∀ (s : State) (k : Key) (cv : Counter), s.k = some k → s.c = some cv → s.slen = s.dlen →
    blocksNeeded s.slen.toNat ≤ 2 ^ 32 - cv[0].toNat →
    s.src.toNat < 2 ^ s.cfg.aw.val → s.src.toNat + s.slen.toNat ≤ 2 ^ s.cfg.aw.val →
    s.dst.toNat < 2 ^ s.cfg.aw.val → s.dst.toNat + s.slen.toNat ≤ 2 ^ s.cfg.aw.val →
    memOK s.cfg .read s.src.toNat s.slen.toNat = true → memOK s.cfg .write s.dst.toNat s.slen.toNat = true →
    isPlain s.cfg s.src.toNat s.slen.toNat = true → isPlain s.cfg s.dst.toNat s.slen.toNat = true →
    ∃ m : Memory, exec .xor s = .next ((s.setMem m).setErr 0) ∧
      (∀ i, i < s.slen.toNat →
        some (m.readByte (s.dst.toNat + i) ^^^ s.mem.readByte (s.src.toNat + i)) =
          (block k (counterAt cv (i / 64)))[i % 64]?) ∧
      (∀ a, (a < s.dst.toNat ∨ s.dst.toNat + s.slen.toNat ≤ a) → m.readByte a = s.mem.readByte a)

/-! Frames and errors -/

/-- R82, R60: what `LDKEY`, `LDCTR`, `CTRNEXT` and `BLOCK` leave unchanged, on success and on error. -/
def Obligations.RegisterCommandsFrame : Prop :=
  ∀ (i : Instr) (s t : State), (i = .ldkey ∨ i = .ldctr ∨ i = .ctrnext ∨ i = .block) → exec i s = .next t →
    SameOperands s t ∧ SameHostSide s t ∧ (∀ a, t.mem.readByte a = s.mem.readByte a) ∧
    (i ≠ .ldkey → t.k = s.k) ∧ (i ≠ .ldctr → i ≠ .ctrnext → t.c = s.c) ∧ (i ≠ .block → t.b = s.b) ∧
    (i = .ctrnext → ∀ cv cv' : Counter, s.c = some cv → t.c = some cv' →
      cv'[1] = cv[1] ∧ cv'[2] = cv[2] ∧ cv'[3] = cv[3])

/-- R62, R24, R26: what `KSGEN` and `XOR` leave unchanged: every register but `ERR`, the counter among them, and every
byte outside the output region. -/
def Obligations.MemoryCommandsFrame : Prop :=
  ∀ (i : Instr) (s t : State), (i = .ksgen ∨ i = .xor) → exec i s = .next t →
    SameOperands s t ∧ SameHostSide s t ∧ t.k = s.k ∧ t.c = s.c ∧ t.b = s.b ∧
    (∀ a, (a < s.dst.toNat ∨ s.dst.toNat + s.dlen.toNat ≤ a) → t.mem.readByte a = s.mem.readByte a)

/-- R210: a failed command has written the code of one of the nine errors to `ERR` and done nothing else. -/
def Obligations.FailedCommandChangesOnlyErr : Prop :=
  ∀ (i : Instr) (s t : State), exec i s = .next t → t.err ≠ 0 → ∃ e : CmdError, t = s.setErr e.code

/-- R213: a failed command, issued again from the state it left, gives the identical error. -/
def Obligations.FailedCommandRepeats : Prop :=
  ∀ (i : Instr) (s t : State), exec i s = .next t → t.err ≠ 0 → exec i t = .next t

/-- R82, R32: a register a command does not read does not affect it. No command reads `ERR` or `B` with `BV`; `LDKEY`
reads neither `K` nor `C` nor their valid bits, nor `DST`, `DLEN`, `ARG`; `LDCTR` neither `K` nor `C`, nor `DST`,
`DLEN`; `CTRNEXT` and `BLOCK` no operand register, `CTRNEXT` no key; `KSGEN` not `SRC`, `SLEN`, `ARG`; `XOR` not `ARG`.
A register the command writes on success keeps its other value only if the command fails. -/
def Obligations.UnreadRegistersDoNotMatter : Prop :=
  ∀ (s t : State) (a n d l g : Word) (e : Byte) (k : Option Key) (cv : Option Counter) (b : Option WordBlock),
    (∀ i, exec i s = .next t → exec i (s.setErr e) = .next t) ∧
    (∀ i, i ≠ .block → exec i s = .next t → exec i (s.setB b) = .next (t.setB b)) ∧
    (exec .block s = .next t → exec .block (s.setB b) = .next (if t.err = 0 then t else t.setB b)) ∧
    (exec .ldkey s = .next t → exec .ldkey (s.setC cv) = .next (t.setC cv) ∧
      exec .ldkey (s.setK k) = .next (if t.err = 0 then t else t.setK k)) ∧
    (exec .ldctr s = .next t → exec .ldctr (s.setK k) = .next (t.setK k) ∧
      exec .ldctr (s.setC cv) = .next (if t.err = 0 then t else t.setC cv)) ∧
    (exec .ldkey s = .next t →
      exec .ldkey (((s.setDst d).setDlen l).setArg g) = .next (((t.setDst d).setDlen l).setArg g)) ∧
    (exec .ldctr s = .next t → exec .ldctr ((s.setDst d).setDlen l) = .next ((t.setDst d).setDlen l)) ∧
    (exec .ctrnext s = .next t →
      exec .ctrnext ((((((s.setK k).setSrc a).setSlen n).setDst d).setDlen l).setArg g) =
        .next ((((((t.setK k).setSrc a).setSlen n).setDst d).setDlen l).setArg g)) ∧
    (exec .block s = .next t →
      exec .block (((((s.setSrc a).setSlen n).setDst d).setDlen l).setArg g) =
        .next (((((t.setSrc a).setSlen n).setDst d).setDlen l).setArg g)) ∧
    (exec .ksgen s = .next t →
      exec .ksgen (((s.setSrc a).setSlen n).setArg g) = .next (((t.setSrc a).setSlen n).setArg g)) ∧
    (exec .xor s = .next t → exec .xor (s.setArg g) = .next (t.setArg g))

/-! Invariants and whole-machine rules -/

/-- R42 (d), R32, R38: every step keeps memory canonical and inside the address space, and `ERR` at most 9. -/
def Obligations.StepKeepsInvariant : Prop :=
  ∀ s t : State, s.Inv → step s = .next t → t.Inv

/-- The invariant holds at reset. -/
def Obligations.ResetHasInvariant : Prop := State.reset.Inv

/-- R40: the reset values the spec gives. -/
def Obligations.ResetValues : Prop :=
  State.reset.k = none ∧ State.reset.c = none ∧ State.reset.b = none ∧
  State.reset.src = 0 ∧ State.reset.slen = 0 ∧ State.reset.dst = 0 ∧ State.reset.dlen = 0 ∧ State.reset.arg = 0 ∧
  State.reset.err = 0 ∧ statusWord State.reset = 0 ∧
  (∀ i : Fin 4, readReg State.reset (0x20 + 4 * i.val) = 0) ∧
  (∀ i : Fin 16, readReg State.reset (0x40 + 4 * i.val) = 0)

/-- R40, R240: the reset event gives every register of the block its reset value and leaves `Mem` untouched. -/
def Obligations.ResetEventKeepsMemory : Prop :=
  ∀ (s : State) (rest : List HostAction), s.script = .reset :: rest →
    ∃ t, step s = .next t ∧ t.k = none ∧ t.c = none ∧ t.b = none ∧ t.kv = false ∧ t.cv = false ∧ t.bv = false ∧
      t.src = 0 ∧ t.slen = 0 ∧ t.dst = 0 ∧ t.dlen = 0 ∧ t.arg = 0 ∧ t.err = 0 ∧ statusWord t = 0 ∧
      (∀ i : Fin 4, readReg t (0x20 + 4 * i.val) = 0) ∧ (∀ i : Fin 16, readReg t (0x40 + 4 * i.val) = 0) ∧
      t.mem = s.mem ∧ t.cfg = s.cfg ∧ t.script = rest ∧ t.obs = s.obs

/-- R27, R241: no line but reset clears a valid bit; in particular reset is the only way `K` stops holding a key. -/
def Obligations.OnlyResetClearsValidBits : Prop :=
  ∀ s t : State, step s = .next t → (∀ rest, s.script ≠ .reset :: rest) →
    (s.kv = true → t.kv = true) ∧ (s.cv = true → t.cv = true) ∧ (s.bv = true → t.bv = true)

/-- R22: the key changes only at a successful `LDKEY`, or at reset. -/
def Obligations.KeyWrittenOnlyByLdkey : Prop :=
  ∀ s t : State, step s = .next t → t.k ≠ s.k →
    ∃ rest, (s.script = wrCmd 0x00000001 :: rest ∧ t.err = 0) ∨ s.script = .reset :: rest

/-- R24: the counter changes only at a successful `LDCTR` or `CTRNEXT`, or at reset. -/
def Obligations.CounterWrittenOnlyByLoaders : Prop :=
  ∀ s t : State, step s = .next t → t.c ≠ s.c →
    ∃ rest, (s.script = wrCmd 0x00000002 :: rest ∧ t.err = 0) ∨ (s.script = wrCmd 0x00000003 :: rest ∧ t.err = 0) ∨
      s.script = .reset :: rest

/-- R26: the block register changes only at a successful `BLOCK`, or at reset. -/
def Obligations.BlockRegisterWrittenOnlyByBlock : Prop :=
  ∀ s t : State, step s = .next t → t.b ≠ s.b →
    ∃ rest, (s.script = wrCmd 0x00000004 :: rest ∧ t.err = 0) ∨ s.script = .reset :: rest

/-- R28, R32: `ERR` changes only at a write to `CMD`, an operand register only at the host's write of that value to
it; or at reset. -/
def Obligations.ErrAndOperandsWrittenOnlyByTheirLines : Prop :=
  ∀ s t : State, step s = .next t → (∀ rest, s.script ≠ .reset :: rest) →
    (t.err ≠ s.err → ∃ w rest, s.script = wrCmd w :: rest) ∧
    (t.src ≠ s.src → ∃ rest, s.script = wrReg .src t.src :: rest) ∧
    (t.slen ≠ s.slen → ∃ rest, s.script = wrReg .slen t.slen :: rest) ∧
    (t.dst ≠ s.dst → ∃ rest, s.script = wrReg .dst t.dst :: rest) ∧
    (t.dlen ≠ s.dlen → ∃ rest, s.script = wrReg .dlen t.dlen :: rest) ∧
    (t.arg ≠ s.arg → ∃ rest, s.script = wrReg .arg t.arg :: rest)

/-- R60, R62: a byte of memory changes only where a host line writes it directly, or in the output region of a
`KSGEN` or `XOR`. -/
def Obligations.MemoryWrittenOnlyWhereDirected : Prop :=
  ∀ (s t : State) (x : Nat), step s = .next t → t.mem.readByte x ≠ s.mem.readByte x →
    (∃ a bytes rest, s.script = .mw a bytes :: rest ∧ a ≤ x ∧ x < a + bytes.length) ∨
    (∃ rest, (s.script = wrCmd 0x00000005 :: rest ∨ s.script = wrCmd 0x00000006 :: rest) ∧
      s.dst.toNat ≤ x ∧ x < s.dst.toNat + s.dlen.toNat)

/-- R22, R137: the key has no read path. Two machines that differ in the value of a loaded key alone, at any line but
`BLOCK`, `KSGEN` and `XOR`, still differ in nothing else afterwards: no register, no observation, no byte. -/
def Obligations.KeyValueReachesOnlyCipherCommands : Prop :=
  ∀ (s t : State) (k k' : Key), step (s.setK (some k)) = .next t →
    (∀ rest, s.script ≠ wrCmd 0x00000004 :: rest ∧ s.script ≠ wrCmd 0x00000005 :: rest ∧
      s.script ≠ wrCmd 0x00000006 :: rest) →
    ∃ t', step (s.setK (some k')) = .next t' ∧ t'.setK none = t.setK none

/-- R251: a run ends. On a platform without windows, a step at a script whose lines are all well-formed answers a next
state on the same platform whose script is one line shorter and still well-formed; so such a script runs to its last
line in as many steps as it has lines: no line, no command and no error leaves the machine stuck. That an `mw` or `mr`
line completes whatever `MemOK` says is the model's reading (DEDUCED, log 9), and that a step with no line left stays
where it is the model's choice (log 8). -/
def Obligations.WellFormedScriptRunsToEnd : Prop :=
  ∀ s : State, s.cfg.regWindows = [] → s.cfg.devices = [] → (∀ act ∈ s.script, act.WellFormed s.cfg) →
    (∃ t, step s = .next t ∧ t.cfg.regWindows = [] ∧ t.cfg.devices = [] ∧ t.script = s.script.tail ∧
      ∀ act ∈ t.script, act.WellFormed t.cfg) ∧
    (∃ t, Host.Core.run core s.script.length s = .next t ∧ t.script = [])

/-! The register interface and the host's lines -/

/-- R31: the fields of `STATUS`; reading it has no side effect but the host's observation, and a write is ignored. -/
def Obligations.StatusFields : Prop :=
  ∀ s : State,
    (statusWord s).toNat = s.err.toNat + 2 ^ 8 * s.kv.toNat + 2 ^ 9 * s.cv.toNat + 2 ^ 10 * s.bv.toNat ∧
    (∀ rest, s.script = .rd 0x04 .word :: rest →
      step s = .next ((s.setScript rest).setObs (s.obs ++ [.reg 0x04 (statusWord s)]))) ∧
    (∀ v rest, s.script = .wr 0x04 .word v :: rest → step s = .next (s.setScript rest))

/-- R33: what a read of each offset of the register map gives. -/
def Obligations.RegisterMapReads : Prop :=
  ∀ s : State,
    readReg s 0x00 = 0 ∧ readReg s 0x04 = statusWord s ∧ readReg s 0x08 = s.src ∧ readReg s 0x0C = s.slen ∧
    readReg s 0x10 = s.dst ∧ readReg s 0x14 = s.dlen ∧ readReg s 0x18 = s.arg ∧
    (∀ i : Fin 4, (s.c = none → readReg s (0x20 + 4 * i.val) = 0) ∧
      (∀ cv : Counter, s.c = some cv → readReg s (0x20 + 4 * i.val) = cv[i])) ∧
    (∀ i : Fin 16, (s.b = none → readReg s (0x40 + 4 * i.val) = 0) ∧
      (∀ b : WordBlock, s.b = some b → readReg s (0x40 + 4 * i.val) = b[i]))

/-- R34: a write to a read-only or reserved offset is ignored, a read of a write-only or reserved offset returns 0, and
neither sets `ERR`; a register read changes nothing but the host's observations. -/
def Obligations.ReservedOffsetsInert : Prop :=
  ∀ (s : State) (off : Nat) (rest : List HostAction), off % 4 = 0 →
    (∀ v, s.script = .wr off .word v :: rest → (off = 0x04 ∨ 0x1C ≤ off) → step s = .next (s.setScript rest)) ∧
    ((off = 0x00 ∨ off = 0x1C ∨ (0x30 ≤ off ∧ off < 0x40) ∨ 0x80 ≤ off) → readReg s off = 0) ∧
    (s.script = .rd off .word :: rest →
      step s = .next ((s.setScript rest).setObs (s.obs ++ [.reg off (readReg s off)])))

/-- R34, U6: an access narrower than a word, or at an offset that is not a multiple of 4, is refused. -/
def Obligations.UndefinedRegisterAccessRefused : Prop :=
  ∀ (s : State) (off : Nat) (size : AccessSize) (rest : List HostAction), (size ≠ .word ∨ off % 4 ≠ 0) →
    (∀ v, s.script = .wr off size v :: rest → step s = .refused .registerAccess) ∧
    (s.script = .rd off size :: rest → step s = .refused .registerAccess)

/-- R28: an operand register stores the value the host writes, and a host read returns it; nothing else changes. -/
def Obligations.OperandRegistersHoldWhatIsWritten : Prop :=
  ∀ (s : State) (r : Reg) (v : Word) (rest : List HostAction),
    (r = .src ∨ r = .slen ∨ r = .dst ∨ r = .dlen ∨ r = .arg) → s.script = wrReg r v :: rdReg r :: rest →
    ∃ t u, step s = .next t ∧ step t = .next u ∧ u.obs = s.obs ++ [.reg r.offset v] ∧ u.script = rest ∧
      u.k = s.k ∧ u.c = s.c ∧ u.b = s.b ∧ u.err = s.err ∧ u.mem = s.mem ∧ u.cfg = s.cfg ∧
      (r ≠ .src → u.src = s.src) ∧ (r ≠ .slen → u.slen = s.slen) ∧ (r ≠ .dst → u.dst = s.dst) ∧
      (r ≠ .dlen → u.dlen = s.dlen) ∧ (r ≠ .arg → u.arg = s.arg)

/-- R88: `mw` stores its bytes at successive addresses and nowhere else, `mr` observes the bytes there. Three clauses
are the model's: that they do so whatever `MemOK` says (DEDUCED, log 9); that both fault where the line ends above
`2^AW`, also with no bytes at an address above it (DESIGN CHOICE, log 7); that both are refused over a register window
or device memory (DESIGN CHOICE, log 17). -/
def Obligations.HostMemoryLines : Prop :=
  ∀ (s : State) (a n : Nat) (bytes : List Byte) (rest : List HostAction),
    (s.script = .mw a bytes :: rest → a + bytes.length ≤ 2 ^ s.cfg.aw.val →
      isPlain s.cfg a bytes.length = true →
      ∃ m : Memory, step s = .next ((s.setScript rest).setMem m) ∧ m.readBytes a bytes.length = bytes ∧
        ∀ x, (x < a ∨ a + bytes.length ≤ x) → m.readByte x = s.mem.readByte x) ∧
    (s.script = .mw a bytes :: rest → 2 ^ s.cfg.aw.val < a + bytes.length → step s = .fault .outsideAddressSpace) ∧
    (s.script = .mr a n :: rest → a + n ≤ 2 ^ s.cfg.aw.val → isPlain s.cfg a n = true →
      step s = .next ((s.setScript rest).setObs (s.obs ++ [.mem a (s.mem.readBytes a n)]))) ∧
    (s.script = .mr a n :: rest → 2 ^ s.cfg.aw.val < a + n → step s = .fault .outsideAddressSpace) ∧
    (s.script = .mw a bytes :: rest → a + bytes.length ≤ 2 ^ s.cfg.aw.val →
      (hitsRegisters s.cfg a bytes.length = true → step s = .refused .registerWindow) ∧
      (hitsRegisters s.cfg a bytes.length = false → hitsDevice s.cfg a bytes.length = true →
        step s = .refused .deviceWindow)) ∧
    (s.script = .mr a n :: rest → a + n ≤ 2 ^ s.cfg.aw.val →
      (hitsRegisters s.cfg a n = true → step s = .refused .registerWindow) ∧
      (hitsRegisters s.cfg a n = false → hitsDevice s.cfg a n = true → step s = .refused .deviceWindow))

/-! Regions -/

/-- R57: `MemOK` of a kind holds of a region exactly when none of its bytes lies where the platform refuses that kind
(log 4), so it holds of every empty region and is monotone. A region meets a register window or device memory exactly
when one of its bytes lies there (log 5). -/
def Obligations.MemOkMonotone : Prop :=
  ∀ (cfg : Config) (kind : AccessKind) (a n a' n' : Nat),
    memOK cfg kind a 0 = true ∧
    (memOK cfg kind a n = true → a ≤ a' → a' + n' ≤ a + n → memOK cfg kind a' n' = true) ∧
    (memOK cfg .read a n = true ↔
      ∀ x, a ≤ x → x < a + n → ∀ sp ∈ cfg.denyRead, ¬(sp.base ≤ x ∧ x < sp.base + sp.size)) ∧
    (memOK cfg .write a n = true ↔
      ∀ x, a ≤ x → x < a + n → ∀ sp ∈ cfg.denyWrite, ¬(sp.base ≤ x ∧ x < sp.base + sp.size)) ∧
    (hitsRegisters cfg a n = true ↔
      ∃ x, a ≤ x ∧ x < a + n ∧ ∃ sp ∈ cfg.regWindows, sp.base ≤ x ∧ x < sp.base + sp.size) ∧
    (hitsDevice cfg a n = true ↔
      ∃ x, a ≤ x ∧ x < a + n ∧ ∃ sp ∈ cfg.devices, sp.base ≤ x ∧ x < sp.base + sp.size)

/-- R56: with `AW = 32` a region is in range exactly when `a + n` is at most 4294967296; one that ends exactly at the
top is, and so is every empty one. -/
def Obligations.RegionRangeExact : Prop :=
  ∀ (cfg : Config) (a : Word) (n : Nat), cfg.aw = 32 →
    (inRange cfg a n = true ↔ a.toNat + n ≤ 4294967296) ∧ inRange cfg a (2 ^ 32 - a.toNat) = true ∧
    inRange cfg a 0 = true

/-! The pure functions -/

/-- R50: `le32` weighs the byte at the lowest address least, `bytes32` lists bits 7:0 first, and they are inverse. -/
def Obligations.LittleEndianInverse : Prop :=
  (∀ a b c d : Byte,
    (le32 [a, b, c, d] 0).toNat = a.toNat + 2 ^ 8 * b.toNat + 2 ^ 16 * c.toNat + 2 ^ 24 * d.toNat) ∧
  (∀ w : Word, (bytes32 w).map BitVec.toNat =
    [w.toNat % 2 ^ 8, w.toNat / 2 ^ 8 % 2 ^ 8, w.toNat / 2 ^ 16 % 2 ^ 8, w.toNat / 2 ^ 24 % 2 ^ 8]) ∧
  (∀ w : Word, le32 (bytes32 w) 0 = w) ∧ (∀ s : List Byte, s.length = 4 → bytes32 (le32 s 0) = s)

/-- R102: bit `i` of `x` becomes bit `(i + n) mod 32` of the rotation. -/
def Obligations.RotationMovesBitsLeft : Prop :=
  ∀ (x : Word) (n i : Nat), 0 < n → n < 32 → i < 32 → (rotl32 x n).getLsbD ((i + n) % 32) = x.getLsbD i

/-- R103: the quarter round is its twelve steps in order, with the values the spec prints, and is a bijection on
four-word tuples. -/
def Obligations.QuarterRoundBijective : Prop :=
  Function.Bijective (fun x : Word × Word × Word × Word => quarterRound x.1 x.2.1 x.2.2.1 x.2.2.2) ∧
  (∀ a b c d a₁ b₁ c₁ d₁ a₂ b₂ c₂ d₂ : Word,
    a₁ = a + b → d₁ = rotl32 (d ^^^ a₁) 16 → c₁ = c + d₁ → b₁ = rotl32 (b ^^^ c₁) 12 →
    a₂ = a₁ + b₁ → d₂ = rotl32 (d₁ ^^^ a₂) 8 → c₂ = c₁ + d₂ → b₂ = rotl32 (b₁ ^^^ c₂) 7 →
    quarterRound a b c d = (a₂, b₂, c₂, d₂)) ∧
  quarterRound 0 0 0 0 = (0, 0, 0, 0) ∧
  quarterRound 0xffffffff 0xffffffff 0xffffffff 0xffffffff = (0xf0000ffd, 0x88790878, 0x0110fdef, 0x010ffdf0) ∧
  quarterRound 0x11111111 0x01020304 0x9b8d6f43 0x01234567 = (0xea2a92f4, 0xcb1cf8ce, 0x4581472e, 0x5881c4bb)

/-- R104: the quarter round in a state replaces the four words named and leaves the twelve others. -/
def Obligations.QuarterRoundAtTouchesFourWords : Prop :=
  ∀ (x : WordBlock) (i j k l : Fin 16), [i, j, k, l].Nodup →
    ((quarterRoundAt x i j k l)[i], (quarterRoundAt x i j k l)[j], (quarterRoundAt x i j k l)[k],
      (quarterRoundAt x i j k l)[l]) = quarterRound x[i] x[j] x[k] x[l] ∧
    ∀ h : Fin 16, h ∉ [i, j, k, l] → (quarterRoundAt x i j k l)[h] = x[h]

/-- R108: quarter rounds on disjoint sets of words commute. The four index sets of a column round partition 0..15, so
do those of a diagonal round, and each round is its four quarter rounds taken in any order. -/
def Obligations.DisjointQuarterRoundsCommute : Prop :=
  (∀ (x : WordBlock) (i j k l i' j' k' l' : Fin 16), [i, j, k, l, i', j', k', l'].Nodup →
    quarterRoundAt (quarterRoundAt x i j k l) i' j' k' l' =
      quarterRoundAt (quarterRoundAt x i' j' k' l') i j k l) ∧
  ∀ columns diagonals : List (Fin 16 × Fin 16 × Fin 16 × Fin 16),
    columns.Perm [(0, 4, 8, 12), (1, 5, 9, 13), (2, 6, 10, 14), (3, 7, 11, 15)] →
    diagonals.Perm [(0, 5, 10, 15), (1, 6, 11, 12), (2, 7, 8, 13), (3, 4, 9, 14)] →
    (columns.flatMap (fun q => [q.1, q.2.1, q.2.2.1, q.2.2.2])).Perm (List.finRange 16) ∧
    (diagonals.flatMap (fun q => [q.1, q.2.1, q.2.2.1, q.2.2.2])).Perm (List.finRange 16) ∧
    ∀ x : WordBlock,
      columns.foldl (fun x q => quarterRoundAt x q.1 q.2.1 q.2.2.1 q.2.2.2) x = columnRound x ∧
      diagonals.foldl (fun x q => quarterRoundAt x q.1 q.2.1 q.2.2.1 q.2.2.2) x = diagonalRound x

/-- R110, R52: a block is 64 bytes, and byte `j` is bits `8*(j mod 4)+7 : 8*(j mod 4)` of word `j div 4`. -/
def Obligations.BlockByteLayout : Prop :=
  ∀ (k : Key) (cv : Counter), (block k cv).length = 64 ∧
    ∀ (j : Nat) (h : j < 64), (block k cv)[j]? = some ((blockWords k cv)[j / 4].extractLsb' (8 * (j % 4)) 8)

/-- R150: `CounterAt(Cv, j)` adds `j` to word 0 in the natural numbers and copies the nonce words; it is `Next` applied
`j` times, over the whole range where it is defined. -/
def Obligations.CounterAtIteratesNext : Prop :=
  ∀ cv : Counter, counterAt cv 0 = cv ∧
    (∀ j, j < 2 ^ 32 - cv[0].toNat → (counterAt cv j)[0].toNat = cv[0].toNat + j ∧
      (counterAt cv j)[1] = cv[1] ∧ (counterAt cv j)[2] = cv[2] ∧ (counterAt cv j)[3] = cv[3]) ∧
    ∀ j, j + 1 < 2 ^ 32 - cv[0].toNat → nextCounter (counterAt cv j) = some (counterAt cv (j + 1))

/-- R151, R152: `BlocksNeeded` is the ceiling of `n / 64`; a keystream exists exactly when
`Cv[0] + BlocksNeeded(n) <= 2^32`; a 32-bit length can overflow only above `0xFC000000`; at `0xFFFFFFFF` one block is
left. -/
def Obligations.CounterRoomExact : Prop :=
  ∀ (cv : Counter) (n : Nat),
    (∀ b, blocksNeeded n ≤ b ↔ n ≤ 64 * b) ∧
    (counterRoom cv n = true ↔ cv[0].toNat + blocksNeeded n ≤ 2 ^ 32) ∧
    (n < 2 ^ 32 → cv[0].toNat ≤ 0xFC000000 → counterRoom cv n = true) ∧
    (cv[0].toNat = 0xFFFFFFFF → (counterRoom cv n = true ↔ n ≤ 64))

/-- R154 (a), (b): a shorter keystream is a prefix of a longer one, and a keystream continues at a block boundary. -/
def Obligations.KeystreamPrefixAndContinuation : Prop :=
  ∀ (k : Key) (cv : Counter) (n : Nat), blocksNeeded n ≤ 2 ^ 32 - cv[0].toNat →
    (∀ p, p ≤ n → keystream k cv p = (keystream k cv n).take p) ∧
    (∀ a m, n = 64 * a + m → keystream k cv n = keystream k cv (64 * a) ++ keystream k (counterAt cv a) m)

/-- R181 (b), (c), (e): involution, prefix consistency, and splitting at a block boundary. -/
def Obligations.XorBytesLaws : Prop :=
  ∀ (k : Key) (cv : Counter) (s : List Byte), blocksNeeded s.length ≤ 2 ^ 32 - cv[0].toNat →
    xorBytes k cv (xorBytes k cv s) = s ∧
    (∀ p, p ≤ s.length → xorBytes k cv (s.take p) = (xorBytes k cv s).take p) ∧
    (∀ N, 64 * N ≤ s.length →
      xorBytes k cv s = xorBytes k cv (s.take (64 * N)) ++ xorBytes k (counterAt cv N) (s.drop (64 * N)))

/-! Headline results -/

/-- R181 (b) on the machine: a successful `XOR` in place, issued again, gives back every byte and every register. -/
def Obligations.XorTwiceInPlaceRestores : Prop :=
  ∀ s t : State, s.mem.wf → s.src = s.dst → exec .xor s = .next t → t.err = 0 →
    exec .xor t = .next (s.setErr 0)

/-- R183: where `KSGEN` succeeds, `XOR` over a readable input region of as many zero bytes leaves the same memory. -/
def Obligations.KsgenIsXorOfZeros : Prop :=
  ∀ s t : State, exec .ksgen s = .next t → t.err = 0 →
    s.src.toNat < 2 ^ s.cfg.aw.val → s.src.toNat + s.dlen.toNat ≤ 2 ^ s.cfg.aw.val →
    memOK s.cfg .read s.src.toNat s.dlen.toNat = true → isPlain s.cfg s.src.toNat s.dlen.toNat = true →
    (∀ i, i < s.dlen.toNat → s.mem.readByte (s.src.toNat + i) = 0) →
    exec .xor (s.setSlen s.dlen) = .next (t.setSlen s.dlen)

/-- R181 (d), R173: two `XOR` commands that differ in where the output lies, both successful, write the same bytes,
whatever the overlap of either output with the input. -/
def Obligations.XorOverlapInvariance : Prop :=
  ∀ (s t u : State) (d : Word), exec .xor s = .next t → exec .xor (s.setDst d) = .next u →
    t.err = 0 → u.err = 0 →
    t.mem.readBytes s.dst.toNat s.slen.toNat = u.mem.readBytes d.toNat s.slen.toNat

/-- R176, R178: the reference chunk sequence, for every chunk size that is a positive multiple of 64 and every
geometry, leaves exactly the memory of the snapshot transition; so `CHUNK` is not architectural. -/
def Obligations.ChunkSequenceMeetsSnapshot : Prop :=
  ∀ (k : Key) (cv : Counter) (src dst n chunk : Nat) (m : Memory), m.wf → 0 < chunk → chunk % 64 = 0 →
    blocksNeeded n ≤ 2 ^ 32 - cv[0].toNat →
    referenceXor k cv src dst n chunk m = m.writeBytes dst (xorBytes k cv (m.readBytes src n))

/-- R175: ascending order reads a byte that an earlier chunk has written exactly when the output starts inside the
input region above its start and there is more than one chunk; in every other geometry it meets the contract. -/
def Obligations.AscendingOrderFailsExactly : Prop :=
  ∀ (k : Key) (cv : Counter) (src dst n chunk : Nat) (m : Memory), m.wf → 0 < chunk → chunk % 64 = 0 →
    blocksNeeded n ≤ 2 ^ 32 - cv[0].toNat →
    ((∃ j l x, j < l ∧ l < chunkCount chunk n ∧
        (dst + chunk * j ≤ x ∧ x < dst + chunk * j + min chunk (n - chunk * j)) ∧
        (src + chunk * l ≤ x ∧ x < src + chunk * l + min chunk (n - chunk * l))) ↔
      (src < dst ∧ dst < src + n ∧ chunk < n)) ∧
    (¬(src < dst ∧ dst < src + n ∧ chunk < n) →
      ascendingXor k cv src dst n chunk m = m.writeBytes dst (xorBytes k cv (m.readBytes src n)))

/-- R69: commands of two instances that share only `Mem` commute when neither writes what the other reads or writes:
either order leaves both instances' registers and the memory the same. -/
def Obligations.DisjointInstancesCommute : Prop :=
  ∀ (i j : Instr) (s s' t t' : State) (m : Memory), m.wf →
    exec i (s.setMem m) = .next t → exec j (s'.setMem m) = .next t' →
    Span.disjoint (writeSpan i s) (writeSpan j s') → Span.disjoint (writeSpan i s) (readSpan j s') →
    Span.disjoint (readSpan i s) (writeSpan j s') →
    ∃ m', exec j (s'.setMem t.mem) = .next (t'.setMem m') ∧
      exec i (s.setMem t'.mem) = .next (t.setMem m')
end

