-- ==== Sys2Proof/Laws/Functions.lean ====
section
/-! SUPPORT. The lengths of the byte strings the pure functions give. -/

namespace Sys2Proof.Machine

@[simp] theorem length_bytes32 (w : Word) : (bytes32 w).length = 4 := rfl

theorem length_flatMap_const {α : Type} (l : List α) (f : α → List Byte) (n : Nat) (h : ∀ x, (f x).length = n) :
    (l.flatMap f).length = n * l.length := by
  induction l with
  | nil => simp
  | cons x l ih => simp only [List.flatMap_cons, List.length_append, h, ih, List.length_cons]; ring

/-- A block is 64 bytes (R110). -/
@[simp] theorem length_block (k : Key) (cv : Counter) : (block k cv).length = 64 := by
  unfold block
  rw [length_flatMap_const _ _ 4 length_bytes32]
  simp

theorem le_blocksNeeded (n : Nat) : n ≤ 64 * blocksNeeded n := by
  unfold blocksNeeded; omega

/-- A keystream has the length asked for (R153). -/
@[simp] theorem length_keystream (k : Key) (cv : Counter) (n : Nat) : (keystream k cv n).length = n := by
  unfold keystream
  rw [List.length_take, length_flatMap_const _ _ 64 (fun j => length_block k (counterAt cv j)), List.length_range]
  exact min_eq_left (le_blocksNeeded n)

@[simp] theorem length_xorBytes (k : Key) (cv : Counter) (s : List Byte) : (xorBytes k cv s).length = s.length := by
  simp [xorBytes]

theorem counterRoom_iff (cv : Counter) (n : Nat) :
    counterRoom cv n = true ↔ blocksNeeded n ≤ 2 ^ 32 - cv[0].toNat := by
  simp [counterRoom]

end Sys2Proof.Machine
end

