-- ==== Sys2Proof/Laws/Memory.lean ====
section
/-! SUPPORT. The laws of memory: what a read sees after a write, that every operation keeps the canonical form, and
that two canonical memories with the same bytes are the same data. -/

namespace Sys2Proof.Machine

theorem Memory.readByte_erase (m : Memory) (a x : Nat) :
    (m.erase a).readByte x = if x = a then Memory.unwritten else m.readByte x := by
  unfold Memory.erase
  induction m with
  | nil => simp [Memory.readByte]
  | cons y m ih =>
    by_cases hy : y.1 = a
    · rw [List.filter_cons_of_neg (by simp [hy]), ih]
      simp only [Memory.readByte]
      split
      · rfl
      · rw [if_neg (by omega)]
    · rw [List.filter_cons_of_pos (by simp [hy])]
      simp only [Memory.readByte, ih]
      by_cases hx : y.1 = x
      · rw [if_pos hx, if_neg (by omega), if_pos hx]
      · simp [hx]

theorem Memory.readByte_insertCell (m : Memory) (c : Host.Cell) (x : Nat) (h : ∀ y ∈ m, y.1 ≠ c.1) :
    (m.insertCell c).readByte x = if x = c.1 then c.2 else m.readByte x := by
  induction m with
  | nil => simp [Memory.insertCell, Memory.readByte, eq_comm]
  | cons y m ih =>
    have hy : y.1 ≠ c.1 := h y (by simp)
    have ih := ih (fun z hz => h z (by simp [hz]))
    simp only [Memory.insertCell]
    split
    · simp only [Memory.readByte]
      by_cases hc : c.1 = x
      · simp [hc]
      · rw [if_neg hc, if_neg (Ne.symm hc)]
    · simp only [Memory.readByte, ih]
      by_cases hx : y.1 = x
      · rw [if_pos hx, if_neg (by omega), if_pos hx]
      · simp [hx]

theorem Memory.erase_ne (m : Memory) (a : Nat) : ∀ y ∈ m.erase a, y.1 ≠ a := by
  intro y hy
  simpa using (List.mem_filter.mp hy).2

/-- A read after a write of one byte. -/
@[simp] theorem Memory.readByte_writeByte (m : Memory) (a x : Nat) (v : Byte) :
    (m.writeByte a v).readByte x = if x = a then v else m.readByte x := by
  unfold Memory.writeByte
  split
  · rename_i hv
    rw [Memory.readByte_erase, hv]
  · rw [Memory.readByte_insertCell _ _ _ (m.erase_ne a), Memory.readByte_erase]
    by_cases hx : x = a <;> simp [hx]

@[simp] theorem Memory.length_readBytes (m : Memory) (a n : Nat) : (m.readBytes a n).length = n := by
  simp [Memory.readBytes]

@[simp] theorem Memory.getElem_readBytes (m : Memory) (a n i : Nat) (h : i < (m.readBytes a n).length) :
    (m.readBytes a n)[i] = m.readByte (a + i) := by
  simp [Memory.readBytes]

/-- A read after a write of a byte string: the string inside its region, the old byte outside. -/
theorem Memory.readByte_writeBytes (m : Memory) (a x : Nat) (s : List Byte) :
    (m.writeBytes a s).readByte x =
      if h : a ≤ x ∧ x < a + s.length then s[x - a]'(by omega) else m.readByte x := by
  induction s generalizing m a with
  | nil =>
    have : ¬(a ≤ x ∧ x < a + ([] : List Byte).length) := by simp
    rw [dif_neg this]; rfl
  | cons v s ih =>
    simp only [Memory.writeBytes, ih, Memory.readByte_writeByte, List.length_cons]
    by_cases hx : x = a
    · subst hx
      rw [dif_neg (by omega), dif_pos (by omega)]
      simp
    · by_cases hr : a + 1 ≤ x ∧ x < a + 1 + s.length
      · rw [dif_pos hr, dif_pos (by omega)]
        have : x - a = (x - (a + 1)) + 1 := by omega
        simp [this]
      · rw [dif_neg hr, dif_neg (by omega), if_neg hx]

theorem Memory.readByte_writeBytes_in (m : Memory) (a i : Nat) (s : List Byte) (h : i < s.length) :
    (m.writeBytes a s).readByte (a + i) = s[i] := by
  rw [Memory.readByte_writeBytes, dif_pos (by omega)]
  simp

theorem Memory.readByte_writeBytes_out (m : Memory) (a x : Nat) (s : List Byte) (h : x < a ∨ a + s.length ≤ x) :
    (m.writeBytes a s).readByte x = m.readByte x := by
  rw [Memory.readByte_writeBytes, dif_neg (by omega)]

/-- Reading a region back after writing it. -/
theorem Memory.readBytes_writeBytes (m : Memory) (a : Nat) (s : List Byte) :
    (m.writeBytes a s).readBytes a s.length = s := by
  apply List.ext_getElem (by simp)
  intro i h1 h2
  simp [Memory.readByte_writeBytes_in _ _ _ _ h2]

theorem Memory.mem_insertCell {m : Memory} {c x : Host.Cell} : x ∈ m.insertCell c ↔ x = c ∨ x ∈ m := by
  induction m with
  | nil => simp [Memory.insertCell]
  | cons y m ih =>
    simp only [Memory.insertCell]
    split
    · simp
    · simp only [List.mem_cons, ih]; tauto

theorem Memory.wf_erase {m : Memory} (a : Nat) (h : m.wf) : (m.erase a).wf :=
  ⟨h.1.filter _, fun x hx => h.2 x (List.mem_filter.mp hx).1⟩

theorem Memory.pairwise_insertCell {m : Memory} {c : Host.Cell} (h : m.Pairwise (fun x y => x.1 < y.1))
    (hc : ∀ y ∈ m, y.1 ≠ c.1) : (m.insertCell c).Pairwise (fun x y => x.1 < y.1) := by
  induction m with
  | nil => simp [Memory.insertCell]
  | cons y m ih =>
    have hy := hc y (by simp)
    have h' := List.pairwise_cons.mp h
    simp only [Memory.insertCell]
    split
    · rename_i hlt
      refine List.pairwise_cons.mpr ⟨fun z hz => ?_, h⟩
      rcases List.mem_cons.mp hz with rfl | hz
      · exact hlt
      · exact hlt.trans (h'.1 z hz)
    · refine List.pairwise_cons.mpr ⟨fun z hz => ?_, ih h'.2 (fun z hz => hc z (by simp [hz]))⟩
      rcases Memory.mem_insertCell.mp hz with rfl | hz
      · omega
      · exact h'.1 z hz

/-- Storing one byte keeps the canonical form. -/
theorem Memory.wf_writeByte {m : Memory} (a : Nat) (v : Byte) (h : m.wf) : (m.writeByte a v).wf := by
  unfold Memory.writeByte
  have he := Memory.wf_erase a h
  split
  · exact he
  · rename_i hv
    refine ⟨Memory.pairwise_insertCell he.1 (m.erase_ne a), fun x hx => ?_⟩
    rcases Memory.mem_insertCell.mp hx with rfl | hx
    · exact hv
    · exact he.2 x hx

/-- Storing a byte string keeps the canonical form. -/
theorem Memory.wf_writeBytes {m : Memory} (a : Nat) (s : List Byte) (h : m.wf) : (m.writeBytes a s).wf := by
  induction s generalizing m a with
  | nil => exact h
  | cons v s ih => exact ih _ (Memory.wf_writeByte a v h)

theorem Memory.below_writeByte {m : Memory} {n a : Nat} (v : Byte) (h : m.below n) (ha : a < n) :
    (m.writeByte a v).below n := by
  have he : (m.erase a).below n := fun x hx => h x (List.mem_filter.mp hx).1
  unfold Memory.writeByte
  split
  · exact he
  · intro x hx
    rcases Memory.mem_insertCell.mp hx with rfl | hx
    · exact ha
    · exact he x hx

/-- A write inside the address space lists no address outside it. -/
theorem Memory.below_writeBytes {m : Memory} {n a : Nat} (s : List Byte) (h : m.below n) (ha : a + s.length ≤ n) :
    (m.writeBytes a s).below n := by
  induction s generalizing m a with
  | nil => exact h
  | cons v s ih =>
    simp only [List.length_cons] at ha
    exact ih (Memory.below_writeByte v h (by omega)) (by omega)

theorem Memory.readByte_eq_unwritten {m : Memory} {a : Nat} (h : ∀ x ∈ m, x.1 ≠ a) :
    m.readByte a = Memory.unwritten := by
  induction m with
  | nil => rfl
  | cons y m ih =>
    simp only [Memory.readByte]
    rw [if_neg (h y (by simp))]
    exact ih (fun x hx => h x (by simp [hx]))

theorem Memory.readByte_of_mem {m : Memory} (h : m.wf) {x : Host.Cell} (hx : x ∈ m) : m.readByte x.1 = x.2 := by
  induction m with
  | nil => simp at hx
  | cons y m ih =>
    have h' := List.pairwise_cons.mp h.1
    simp only [Memory.readByte]
    rcases List.mem_cons.mp hx with rfl | hx
    · simp
    · rw [if_neg (by have := h'.1 x hx; omega)]
      exact ih ⟨h'.2, fun z hz => h.2 z (by simp [hz])⟩ hx

theorem Memory.mem_iff {m : Memory} (h : m.wf) (x : Host.Cell) :
    x ∈ m ↔ m.readByte x.1 = x.2 ∧ x.2 ≠ Memory.unwritten := by
  constructor
  · exact fun hx => ⟨Memory.readByte_of_mem h hx, h.2 x hx⟩
  · rintro ⟨hr, hn⟩
    by_contra hc
    by_cases hex : ∃ y ∈ m, y.1 = x.1
    · obtain ⟨y, hy, hyx⟩ := hex
      have := Memory.readByte_of_mem h hy
      rw [hyx, hr] at this
      exact hc ((Prod.ext hyx this.symm : y = x) ▸ hy)
    · push Not at hex
      rw [Memory.readByte_eq_unwritten hex] at hr
      exact hn hr.symm

/-- Two canonical memories that read alike everywhere are the same list. -/
theorem Memory.ext_readByte {m m' : Memory} (h : m.wf) (h' : m'.wf) (hr : ∀ a, m.readByte a = m'.readByte a) :
    m = m' := by
  have hmem : ∀ x, x ∈ m ↔ x ∈ m' := fun x => by rw [Memory.mem_iff h, Memory.mem_iff h', hr]
  have irr : ∀ l : Memory, l.Pairwise (fun x y => x.1 < y.1) → l.Nodup := fun l hl =>
    hl.imp (fun hlt => fun he => by rw [he] at hlt; exact lt_irrefl _ hlt)
  have hp : m.Perm m' := (List.perm_ext_iff_of_nodup (irr m h.1) (irr m' h'.1)).mpr hmem
  exact hp.eq_of_pairwise (fun a b _ _ h1 h2 => absurd (h1.trans h2) (lt_irrefl _)) h.1 h'.1

/-- The memory of the reset state is canonical. -/
theorem State.reset_mem_wf : State.reset.mem.wf := by decide

end Sys2Proof.Machine
end

