-- ==== Sys2Proof/Laws/State.lean ====
section
/-! SUPPORT. Every field of State under every update: no later proof unfolds a record update. -/

namespace Sys2Proof.Machine

variable (s : State)

@[simp] theorem State.setK_cfg (v : Option Key) : (s.setK v).cfg = s.cfg := rfl
@[simp] theorem State.setK_k (v : Option Key) : (s.setK v).k = v := rfl
@[simp] theorem State.setK_c (v : Option Key) : (s.setK v).c = s.c := rfl
@[simp] theorem State.setK_b (v : Option Key) : (s.setK v).b = s.b := rfl
@[simp] theorem State.setK_src (v : Option Key) : (s.setK v).src = s.src := rfl
@[simp] theorem State.setK_slen (v : Option Key) : (s.setK v).slen = s.slen := rfl
@[simp] theorem State.setK_dst (v : Option Key) : (s.setK v).dst = s.dst := rfl
@[simp] theorem State.setK_dlen (v : Option Key) : (s.setK v).dlen = s.dlen := rfl
@[simp] theorem State.setK_arg (v : Option Key) : (s.setK v).arg = s.arg := rfl
@[simp] theorem State.setK_err (v : Option Key) : (s.setK v).err = s.err := rfl
@[simp] theorem State.setK_mem (v : Option Key) : (s.setK v).mem = s.mem := rfl
@[simp] theorem State.setK_script (v : Option Key) : (s.setK v).script = s.script := rfl
@[simp] theorem State.setK_obs (v : Option Key) : (s.setK v).obs = s.obs := rfl

@[simp] theorem State.setC_cfg (v : Option Counter) : (s.setC v).cfg = s.cfg := rfl
@[simp] theorem State.setC_k (v : Option Counter) : (s.setC v).k = s.k := rfl
@[simp] theorem State.setC_c (v : Option Counter) : (s.setC v).c = v := rfl
@[simp] theorem State.setC_b (v : Option Counter) : (s.setC v).b = s.b := rfl
@[simp] theorem State.setC_src (v : Option Counter) : (s.setC v).src = s.src := rfl
@[simp] theorem State.setC_slen (v : Option Counter) : (s.setC v).slen = s.slen := rfl
@[simp] theorem State.setC_dst (v : Option Counter) : (s.setC v).dst = s.dst := rfl
@[simp] theorem State.setC_dlen (v : Option Counter) : (s.setC v).dlen = s.dlen := rfl
@[simp] theorem State.setC_arg (v : Option Counter) : (s.setC v).arg = s.arg := rfl
@[simp] theorem State.setC_err (v : Option Counter) : (s.setC v).err = s.err := rfl
@[simp] theorem State.setC_mem (v : Option Counter) : (s.setC v).mem = s.mem := rfl
@[simp] theorem State.setC_script (v : Option Counter) : (s.setC v).script = s.script := rfl
@[simp] theorem State.setC_obs (v : Option Counter) : (s.setC v).obs = s.obs := rfl

@[simp] theorem State.setB_cfg (v : Option WordBlock) : (s.setB v).cfg = s.cfg := rfl
@[simp] theorem State.setB_k (v : Option WordBlock) : (s.setB v).k = s.k := rfl
@[simp] theorem State.setB_c (v : Option WordBlock) : (s.setB v).c = s.c := rfl
@[simp] theorem State.setB_b (v : Option WordBlock) : (s.setB v).b = v := rfl
@[simp] theorem State.setB_src (v : Option WordBlock) : (s.setB v).src = s.src := rfl
@[simp] theorem State.setB_slen (v : Option WordBlock) : (s.setB v).slen = s.slen := rfl
@[simp] theorem State.setB_dst (v : Option WordBlock) : (s.setB v).dst = s.dst := rfl
@[simp] theorem State.setB_dlen (v : Option WordBlock) : (s.setB v).dlen = s.dlen := rfl
@[simp] theorem State.setB_arg (v : Option WordBlock) : (s.setB v).arg = s.arg := rfl
@[simp] theorem State.setB_err (v : Option WordBlock) : (s.setB v).err = s.err := rfl
@[simp] theorem State.setB_mem (v : Option WordBlock) : (s.setB v).mem = s.mem := rfl
@[simp] theorem State.setB_script (v : Option WordBlock) : (s.setB v).script = s.script := rfl
@[simp] theorem State.setB_obs (v : Option WordBlock) : (s.setB v).obs = s.obs := rfl

@[simp] theorem State.setSrc_cfg (v : Word) : (s.setSrc v).cfg = s.cfg := rfl
@[simp] theorem State.setSrc_k (v : Word) : (s.setSrc v).k = s.k := rfl
@[simp] theorem State.setSrc_c (v : Word) : (s.setSrc v).c = s.c := rfl
@[simp] theorem State.setSrc_b (v : Word) : (s.setSrc v).b = s.b := rfl
@[simp] theorem State.setSrc_src (v : Word) : (s.setSrc v).src = v := rfl
@[simp] theorem State.setSrc_slen (v : Word) : (s.setSrc v).slen = s.slen := rfl
@[simp] theorem State.setSrc_dst (v : Word) : (s.setSrc v).dst = s.dst := rfl
@[simp] theorem State.setSrc_dlen (v : Word) : (s.setSrc v).dlen = s.dlen := rfl
@[simp] theorem State.setSrc_arg (v : Word) : (s.setSrc v).arg = s.arg := rfl
@[simp] theorem State.setSrc_err (v : Word) : (s.setSrc v).err = s.err := rfl
@[simp] theorem State.setSrc_mem (v : Word) : (s.setSrc v).mem = s.mem := rfl
@[simp] theorem State.setSrc_script (v : Word) : (s.setSrc v).script = s.script := rfl
@[simp] theorem State.setSrc_obs (v : Word) : (s.setSrc v).obs = s.obs := rfl

@[simp] theorem State.setSlen_cfg (v : Word) : (s.setSlen v).cfg = s.cfg := rfl
@[simp] theorem State.setSlen_k (v : Word) : (s.setSlen v).k = s.k := rfl
@[simp] theorem State.setSlen_c (v : Word) : (s.setSlen v).c = s.c := rfl
@[simp] theorem State.setSlen_b (v : Word) : (s.setSlen v).b = s.b := rfl
@[simp] theorem State.setSlen_src (v : Word) : (s.setSlen v).src = s.src := rfl
@[simp] theorem State.setSlen_slen (v : Word) : (s.setSlen v).slen = v := rfl
@[simp] theorem State.setSlen_dst (v : Word) : (s.setSlen v).dst = s.dst := rfl
@[simp] theorem State.setSlen_dlen (v : Word) : (s.setSlen v).dlen = s.dlen := rfl
@[simp] theorem State.setSlen_arg (v : Word) : (s.setSlen v).arg = s.arg := rfl
@[simp] theorem State.setSlen_err (v : Word) : (s.setSlen v).err = s.err := rfl
@[simp] theorem State.setSlen_mem (v : Word) : (s.setSlen v).mem = s.mem := rfl
@[simp] theorem State.setSlen_script (v : Word) : (s.setSlen v).script = s.script := rfl
@[simp] theorem State.setSlen_obs (v : Word) : (s.setSlen v).obs = s.obs := rfl

@[simp] theorem State.setDst_cfg (v : Word) : (s.setDst v).cfg = s.cfg := rfl
@[simp] theorem State.setDst_k (v : Word) : (s.setDst v).k = s.k := rfl
@[simp] theorem State.setDst_c (v : Word) : (s.setDst v).c = s.c := rfl
@[simp] theorem State.setDst_b (v : Word) : (s.setDst v).b = s.b := rfl
@[simp] theorem State.setDst_src (v : Word) : (s.setDst v).src = s.src := rfl
@[simp] theorem State.setDst_slen (v : Word) : (s.setDst v).slen = s.slen := rfl
@[simp] theorem State.setDst_dst (v : Word) : (s.setDst v).dst = v := rfl
@[simp] theorem State.setDst_dlen (v : Word) : (s.setDst v).dlen = s.dlen := rfl
@[simp] theorem State.setDst_arg (v : Word) : (s.setDst v).arg = s.arg := rfl
@[simp] theorem State.setDst_err (v : Word) : (s.setDst v).err = s.err := rfl
@[simp] theorem State.setDst_mem (v : Word) : (s.setDst v).mem = s.mem := rfl
@[simp] theorem State.setDst_script (v : Word) : (s.setDst v).script = s.script := rfl
@[simp] theorem State.setDst_obs (v : Word) : (s.setDst v).obs = s.obs := rfl

@[simp] theorem State.setDlen_cfg (v : Word) : (s.setDlen v).cfg = s.cfg := rfl
@[simp] theorem State.setDlen_k (v : Word) : (s.setDlen v).k = s.k := rfl
@[simp] theorem State.setDlen_c (v : Word) : (s.setDlen v).c = s.c := rfl
@[simp] theorem State.setDlen_b (v : Word) : (s.setDlen v).b = s.b := rfl
@[simp] theorem State.setDlen_src (v : Word) : (s.setDlen v).src = s.src := rfl
@[simp] theorem State.setDlen_slen (v : Word) : (s.setDlen v).slen = s.slen := rfl
@[simp] theorem State.setDlen_dst (v : Word) : (s.setDlen v).dst = s.dst := rfl
@[simp] theorem State.setDlen_dlen (v : Word) : (s.setDlen v).dlen = v := rfl
@[simp] theorem State.setDlen_arg (v : Word) : (s.setDlen v).arg = s.arg := rfl
@[simp] theorem State.setDlen_err (v : Word) : (s.setDlen v).err = s.err := rfl
@[simp] theorem State.setDlen_mem (v : Word) : (s.setDlen v).mem = s.mem := rfl
@[simp] theorem State.setDlen_script (v : Word) : (s.setDlen v).script = s.script := rfl
@[simp] theorem State.setDlen_obs (v : Word) : (s.setDlen v).obs = s.obs := rfl

@[simp] theorem State.setArg_cfg (v : Word) : (s.setArg v).cfg = s.cfg := rfl
@[simp] theorem State.setArg_k (v : Word) : (s.setArg v).k = s.k := rfl
@[simp] theorem State.setArg_c (v : Word) : (s.setArg v).c = s.c := rfl
@[simp] theorem State.setArg_b (v : Word) : (s.setArg v).b = s.b := rfl
@[simp] theorem State.setArg_src (v : Word) : (s.setArg v).src = s.src := rfl
@[simp] theorem State.setArg_slen (v : Word) : (s.setArg v).slen = s.slen := rfl
@[simp] theorem State.setArg_dst (v : Word) : (s.setArg v).dst = s.dst := rfl
@[simp] theorem State.setArg_dlen (v : Word) : (s.setArg v).dlen = s.dlen := rfl
@[simp] theorem State.setArg_arg (v : Word) : (s.setArg v).arg = v := rfl
@[simp] theorem State.setArg_err (v : Word) : (s.setArg v).err = s.err := rfl
@[simp] theorem State.setArg_mem (v : Word) : (s.setArg v).mem = s.mem := rfl
@[simp] theorem State.setArg_script (v : Word) : (s.setArg v).script = s.script := rfl
@[simp] theorem State.setArg_obs (v : Word) : (s.setArg v).obs = s.obs := rfl

@[simp] theorem State.setErr_cfg (v : Byte) : (s.setErr v).cfg = s.cfg := rfl
@[simp] theorem State.setErr_k (v : Byte) : (s.setErr v).k = s.k := rfl
@[simp] theorem State.setErr_c (v : Byte) : (s.setErr v).c = s.c := rfl
@[simp] theorem State.setErr_b (v : Byte) : (s.setErr v).b = s.b := rfl
@[simp] theorem State.setErr_src (v : Byte) : (s.setErr v).src = s.src := rfl
@[simp] theorem State.setErr_slen (v : Byte) : (s.setErr v).slen = s.slen := rfl
@[simp] theorem State.setErr_dst (v : Byte) : (s.setErr v).dst = s.dst := rfl
@[simp] theorem State.setErr_dlen (v : Byte) : (s.setErr v).dlen = s.dlen := rfl
@[simp] theorem State.setErr_arg (v : Byte) : (s.setErr v).arg = s.arg := rfl
@[simp] theorem State.setErr_err (v : Byte) : (s.setErr v).err = v := rfl
@[simp] theorem State.setErr_mem (v : Byte) : (s.setErr v).mem = s.mem := rfl
@[simp] theorem State.setErr_script (v : Byte) : (s.setErr v).script = s.script := rfl
@[simp] theorem State.setErr_obs (v : Byte) : (s.setErr v).obs = s.obs := rfl

@[simp] theorem State.setMem_cfg (v : Memory) : (s.setMem v).cfg = s.cfg := rfl
@[simp] theorem State.setMem_k (v : Memory) : (s.setMem v).k = s.k := rfl
@[simp] theorem State.setMem_c (v : Memory) : (s.setMem v).c = s.c := rfl
@[simp] theorem State.setMem_b (v : Memory) : (s.setMem v).b = s.b := rfl
@[simp] theorem State.setMem_src (v : Memory) : (s.setMem v).src = s.src := rfl
@[simp] theorem State.setMem_slen (v : Memory) : (s.setMem v).slen = s.slen := rfl
@[simp] theorem State.setMem_dst (v : Memory) : (s.setMem v).dst = s.dst := rfl
@[simp] theorem State.setMem_dlen (v : Memory) : (s.setMem v).dlen = s.dlen := rfl
@[simp] theorem State.setMem_arg (v : Memory) : (s.setMem v).arg = s.arg := rfl
@[simp] theorem State.setMem_err (v : Memory) : (s.setMem v).err = s.err := rfl
@[simp] theorem State.setMem_mem (v : Memory) : (s.setMem v).mem = v := rfl
@[simp] theorem State.setMem_script (v : Memory) : (s.setMem v).script = s.script := rfl
@[simp] theorem State.setMem_obs (v : Memory) : (s.setMem v).obs = s.obs := rfl

@[simp] theorem State.setScript_cfg (v : List HostAction) : (s.setScript v).cfg = s.cfg := rfl
@[simp] theorem State.setScript_k (v : List HostAction) : (s.setScript v).k = s.k := rfl
@[simp] theorem State.setScript_c (v : List HostAction) : (s.setScript v).c = s.c := rfl
@[simp] theorem State.setScript_b (v : List HostAction) : (s.setScript v).b = s.b := rfl
@[simp] theorem State.setScript_src (v : List HostAction) : (s.setScript v).src = s.src := rfl
@[simp] theorem State.setScript_slen (v : List HostAction) : (s.setScript v).slen = s.slen := rfl
@[simp] theorem State.setScript_dst (v : List HostAction) : (s.setScript v).dst = s.dst := rfl
@[simp] theorem State.setScript_dlen (v : List HostAction) : (s.setScript v).dlen = s.dlen := rfl
@[simp] theorem State.setScript_arg (v : List HostAction) : (s.setScript v).arg = s.arg := rfl
@[simp] theorem State.setScript_err (v : List HostAction) : (s.setScript v).err = s.err := rfl
@[simp] theorem State.setScript_mem (v : List HostAction) : (s.setScript v).mem = s.mem := rfl
@[simp] theorem State.setScript_script (v : List HostAction) : (s.setScript v).script = v := rfl
@[simp] theorem State.setScript_obs (v : List HostAction) : (s.setScript v).obs = s.obs := rfl

@[simp] theorem State.setObs_cfg (v : List Observation) : (s.setObs v).cfg = s.cfg := rfl
@[simp] theorem State.setObs_k (v : List Observation) : (s.setObs v).k = s.k := rfl
@[simp] theorem State.setObs_c (v : List Observation) : (s.setObs v).c = s.c := rfl
@[simp] theorem State.setObs_b (v : List Observation) : (s.setObs v).b = s.b := rfl
@[simp] theorem State.setObs_src (v : List Observation) : (s.setObs v).src = s.src := rfl
@[simp] theorem State.setObs_slen (v : List Observation) : (s.setObs v).slen = s.slen := rfl
@[simp] theorem State.setObs_dst (v : List Observation) : (s.setObs v).dst = s.dst := rfl
@[simp] theorem State.setObs_dlen (v : List Observation) : (s.setObs v).dlen = s.dlen := rfl
@[simp] theorem State.setObs_arg (v : List Observation) : (s.setObs v).arg = s.arg := rfl
@[simp] theorem State.setObs_err (v : List Observation) : (s.setObs v).err = s.err := rfl
@[simp] theorem State.setObs_mem (v : List Observation) : (s.setObs v).mem = s.mem := rfl
@[simp] theorem State.setObs_script (v : List Observation) : (s.setObs v).script = s.script := rfl
@[simp] theorem State.setObs_obs (v : List Observation) : (s.setObs v).obs = v := rfl

@[simp] theorem applyReset_cfg : (applyReset s).cfg = s.cfg := rfl
@[simp] theorem applyReset_k : (applyReset s).k = none := rfl
@[simp] theorem applyReset_c : (applyReset s).c = none := rfl
@[simp] theorem applyReset_b : (applyReset s).b = none := rfl
@[simp] theorem applyReset_src : (applyReset s).src = 0 := rfl
@[simp] theorem applyReset_slen : (applyReset s).slen = 0 := rfl
@[simp] theorem applyReset_dst : (applyReset s).dst = 0 := rfl
@[simp] theorem applyReset_dlen : (applyReset s).dlen = 0 := rfl
@[simp] theorem applyReset_arg : (applyReset s).arg = 0 := rfl
@[simp] theorem applyReset_err : (applyReset s).err = 0 := rfl
@[simp] theorem applyReset_mem : (applyReset s).mem = s.mem := rfl
@[simp] theorem applyReset_script : (applyReset s).script = s.script := rfl
@[simp] theorem applyReset_obs : (applyReset s).obs = s.obs := rfl

@[simp] theorem State.setK_setK (v w : Option Key) : (s.setK v).setK w = s.setK w := rfl
@[simp] theorem State.setC_setC (v w : Option Counter) : (s.setC v).setC w = s.setC w := rfl
@[simp] theorem State.setB_setB (v w : Option WordBlock) : (s.setB v).setB w = s.setB w := rfl
@[simp] theorem State.setSrc_setSrc (v w : Word) : (s.setSrc v).setSrc w = s.setSrc w := rfl
@[simp] theorem State.setSlen_setSlen (v w : Word) : (s.setSlen v).setSlen w = s.setSlen w := rfl
@[simp] theorem State.setDst_setDst (v w : Word) : (s.setDst v).setDst w = s.setDst w := rfl
@[simp] theorem State.setDlen_setDlen (v w : Word) : (s.setDlen v).setDlen w = s.setDlen w := rfl
@[simp] theorem State.setArg_setArg (v w : Word) : (s.setArg v).setArg w = s.setArg w := rfl
@[simp] theorem State.setErr_setErr (v w : Byte) : (s.setErr v).setErr w = s.setErr w := rfl
@[simp] theorem State.setMem_setMem (v w : Memory) : (s.setMem v).setMem w = s.setMem w := rfl
@[simp] theorem State.setScript_setScript (v w : List HostAction) : (s.setScript v).setScript w = s.setScript w := rfl
@[simp] theorem State.setObs_setObs (v w : List Observation) : (s.setObs v).setObs w = s.setObs w := rfl

theorem State.setErr_self : s.setErr s.err = s := rfl

end Sys2Proof.Machine
end

