-- ==== Sys2Proof/Laws/Operands.lean ====
section
/-! SUPPORT. Everything each check of a command can do, said once. -/

namespace Sys2Proof.Machine

variable {s t : State} {go : Host.Outcome State Fault Refusal}

@[simp] theorem raise_eq (e : CmdError) (s : State) : raise e s = .next (s.setErr e.code) := rfl

@[simp] theorem ok_eq (s : State) : ok s = .next (s.setErr 0) := rfl

@[simp] theorem require_true (e : CmdError) (s : State) : require true e s go = go := rfl

@[simp] theorem require_false (e : CmdError) (s : State) : require false e s go = .next (s.setErr e.code) := rfl

/-- A check passes on, or raises its error. -/
theorem require_next_cases {p : Bool} {e : CmdError} (h : require p e s go = .next t) :
    (p = true ∧ go = .next t) ∨ (p = false ∧ t = s.setErr e.code) := by
  cases p
  · right; simpa [eq_comm] using h
  · left; simpa using h

/-- The key is at hand, or `KeyNotLoaded` is raised. -/
theorem withKey_next_cases {f : Key → Host.Outcome State Fault Refusal} (h : withKey s f = .next t) :
    (∃ k, s.k = some k ∧ f k = .next t) ∨ (s.k = none ∧ t = s.setErr CmdError.keyNotLoaded.code) := by
  unfold withKey at h
  cases hk : s.k with
  | none => right; simpa [hk, eq_comm] using h
  | some k => left; exact ⟨k, rfl, by simpa [hk] using h⟩

/-- The counter is at hand, or `CounterNotLoaded` is raised. -/
theorem withCounter_next_cases {f : Counter → Host.Outcome State Fault Refusal} (h : withCounter s f = .next t) :
    (∃ cv, s.c = some cv ∧ f cv = .next t) ∨ (s.c = none ∧ t = s.setErr CmdError.counterNotLoaded.code) := by
  unfold withCounter at h
  cases hc : s.c with
  | none => right; simpa [hc, eq_comm] using h
  | some cv => left; exact ⟨cv, rfl, by simpa [hc] using h⟩

theorem withKey_some {f : Key → Host.Outcome State Fault Refusal} {k : Key} (h : s.k = some k) :
    withKey s f = f k := by simp [withKey, h]

theorem withKey_none {f : Key → Host.Outcome State Fault Refusal} (h : s.k = none) :
    withKey s f = .next (s.setErr CmdError.keyNotLoaded.code) := by simp [withKey, h]

theorem withCounter_some {f : Counter → Host.Outcome State Fault Refusal} {cv : Counter} (h : s.c = some cv) :
    withCounter s f = f cv := by simp [withCounter, h]

theorem withCounter_none {f : Counter → Host.Outcome State Fault Refusal} (h : s.c = none) :
    withCounter s f = .next (s.setErr CmdError.counterNotLoaded.code) := by simp [withCounter, h]

theorem requirePlain_of_isPlain {cfg : Config} {a n : Nat} (h : isPlain cfg a n = true) :
    requirePlain cfg a n go = go := by
  simp only [isPlain, Bool.and_eq_true, Bool.not_eq_true'] at h
  simp [requirePlain, h.1, h.2]

/-- A region is plain and passes on; otherwise the machine refuses, so no next state comes out. -/
theorem requirePlain_next_cases {cfg : Config} {a n : Nat} (h : requirePlain cfg a n go = .next t) :
    isPlain cfg a n = true ∧ go = .next t := by
  unfold requirePlain at h
  split at h
  · cases h
  · split at h
    · cases h
    · exact ⟨by simp_all [isPlain], h⟩

theorem inRange_iff (cfg : Config) (a : Word) (n : Nat) :
    inRange cfg a n = true ↔ a.toNat < 2 ^ cfg.aw.val ∧ a.toNat + n ≤ 2 ^ cfg.aw.val := by
  simp [inRange]

/-- A span and a region share an address exactly when some address lies in both. -/
theorem Span.meets_iff (sp : Span) (a n : Nat) :
    Span.meets sp a n = true ↔ ∃ x, sp.base ≤ x ∧ x < sp.base + sp.size ∧ a ≤ x ∧ x < a + n := by
  simp only [Span.meets, decide_eq_true_eq]
  constructor
  · exact fun h => ⟨max sp.base a, by omega, by omega, by omega, by omega⟩
  · rintro ⟨x, h⟩; omega

/-- `MemOK` holds exactly when the platform refuses none of the region's bytes. -/
theorem memOK_iff (cfg : Config) (kind : AccessKind) (a n : Nat) :
    memOK cfg kind a n = true ↔
      ∀ x, a ≤ x → x < a + n → ∀ sp ∈ denied cfg kind, ¬(sp.base ≤ x ∧ x < sp.base + sp.size) := by
  simp only [memOK, List.all_eq_true, Bool.not_eq_true', ← Bool.not_eq_true, Span.meets_iff]
  constructor
  · exact fun h x h1 h2 sp hsp hx => h sp hsp ⟨x, hx.1, hx.2, h1, h2⟩
  · rintro h sp hsp ⟨x, h1, h2, h3, h4⟩
    exact h x h3 h4 sp hsp ⟨h1, h2⟩

theorem CmdError.code_le (e : CmdError) : e.code.toNat ≤ 9 := by cases e <;> decide

theorem CmdError.code_ne_zero (e : CmdError) : e.code ≠ 0 := by cases e <;> decide

end Sys2Proof.Machine
end

