-- ==== Sys2Proof/Laws/Exec.lean ====
section
/-! SUPPORT. Everything a command can do when it answers a next state: an error that writes `ERR` alone, or its one
effect with the checks it passed. -/

namespace Sys2Proof.Machine

variable {s t : State}

theorem execLdkey_cases (h : execLdkey s = .next t) :
    (∃ e : CmdError, t = s.setErr e.code) ∨
    (s.slen = 32 ∧ inRange s.cfg s.src 32 = true ∧ memOK s.cfg .read s.src.toNat 32 = true ∧
      isPlain s.cfg s.src.toNat 32 = true ∧
      t = (s.setK (some (keyWords (s.mem.readBytes s.src.toNat 32)))).setErr 0) := by
  unfold execLdkey at h
  rcases require_next_cases h with ⟨h1, h⟩ | ⟨_, h⟩
  · rcases require_next_cases h with ⟨h2, h⟩ | ⟨_, h⟩
    · rcases require_next_cases h with ⟨h3, h⟩ | ⟨_, h⟩
      · obtain ⟨h4, h⟩ := requirePlain_next_cases h
        right
        exact ⟨by simpa using h1, h2, h3, h4, by simpa [eq_comm] using h⟩
      · exact .inl ⟨_, h⟩
    · exact .inl ⟨_, h⟩
  · exact .inl ⟨_, h⟩

theorem execLdctr_cases (h : execLdctr s = .next t) :
    (∃ e : CmdError, t = s.setErr e.code) ∨
    (s.slen = 12 ∧ inRange s.cfg s.src 12 = true ∧ memOK s.cfg .read s.src.toNat 12 = true ∧
      isPlain s.cfg s.src.toNat 12 = true ∧
      t = (s.setC (some (build (s.mem.readBytes s.src.toNat 12) s.arg))).setErr 0) := by
  unfold execLdctr at h
  rcases require_next_cases h with ⟨h1, h⟩ | ⟨_, h⟩
  · rcases require_next_cases h with ⟨h2, h⟩ | ⟨_, h⟩
    · rcases require_next_cases h with ⟨h3, h⟩ | ⟨_, h⟩
      · obtain ⟨h4, h⟩ := requirePlain_next_cases h
        right
        exact ⟨by simpa using h1, h2, h3, h4, by simpa [eq_comm] using h⟩
      · exact .inl ⟨_, h⟩
    · exact .inl ⟨_, h⟩
  · exact .inl ⟨_, h⟩

theorem execCtrnext_cases (h : execCtrnext s = .next t) :
    (∃ e : CmdError, t = s.setErr e.code) ∨
    (∃ cv next, s.c = some cv ∧ nextCounter cv = some next ∧ t = (s.setC (some next)).setErr 0) := by
  unfold execCtrnext at h
  rcases withCounter_next_cases h with ⟨cv, hc, h⟩ | ⟨_, h⟩
  · split at h
    · exact .inl ⟨_, by simpa [eq_comm] using h⟩
    · rename_i next hn
      exact .inr ⟨cv, next, hc, hn, by simpa [eq_comm] using h⟩
  · exact .inl ⟨_, h⟩

theorem execBlock_cases (h : execBlock s = .next t) :
    (∃ e : CmdError, t = s.setErr e.code) ∨
    (∃ k cv, s.k = some k ∧ s.c = some cv ∧ t = (s.setB (some (blockWords k cv))).setErr 0) := by
  unfold execBlock at h
  rcases withKey_next_cases h with ⟨k, hk, h⟩ | ⟨_, h⟩
  · rcases withCounter_next_cases h with ⟨cv, hc, h⟩ | ⟨_, h⟩
    · exact .inr ⟨k, cv, hk, hc, by simpa [eq_comm] using h⟩
    · exact .inl ⟨_, h⟩
  · exact .inl ⟨_, h⟩

theorem execKsgen_cases (h : execKsgen s = .next t) :
    (∃ e : CmdError, t = s.setErr e.code) ∨
    (∃ k cv, s.k = some k ∧ s.c = some cv ∧ counterRoom cv s.dlen.toNat = true ∧
      inRange s.cfg s.dst s.dlen.toNat = true ∧ memOK s.cfg .write s.dst.toNat s.dlen.toNat = true ∧
      isPlain s.cfg s.dst.toNat s.dlen.toNat = true ∧
      t = (s.setMem (s.mem.writeBytes s.dst.toNat (keystream k cv s.dlen.toNat))).setErr 0) := by
  unfold execKsgen at h
  rcases withKey_next_cases h with ⟨k, hk, h⟩ | ⟨_, h⟩
  · rcases withCounter_next_cases h with ⟨cv, hc, h⟩ | ⟨_, h⟩
    · rcases require_next_cases h with ⟨h1, h⟩ | ⟨_, h⟩
      · rcases require_next_cases h with ⟨h2, h⟩ | ⟨_, h⟩
        · rcases require_next_cases h with ⟨h3, h⟩ | ⟨_, h⟩
          · obtain ⟨h4, h⟩ := requirePlain_next_cases h
            exact .inr ⟨k, cv, hk, hc, h1, h2, h3, h4, by simpa [eq_comm] using h⟩
          · exact .inl ⟨_, h⟩
        · exact .inl ⟨_, h⟩
      · exact .inl ⟨_, h⟩
    · exact .inl ⟨_, h⟩
  · exact .inl ⟨_, h⟩

theorem execXor_cases (h : execXor s = .next t) :
    (∃ e : CmdError, t = s.setErr e.code) ∨
    (∃ k cv, s.k = some k ∧ s.c = some cv ∧ s.slen = s.dlen ∧ counterRoom cv s.slen.toNat = true ∧
      inRange s.cfg s.src s.slen.toNat = true ∧ inRange s.cfg s.dst s.slen.toNat = true ∧
      memOK s.cfg .read s.src.toNat s.slen.toNat = true ∧ memOK s.cfg .write s.dst.toNat s.slen.toNat = true ∧
      isPlain s.cfg s.src.toNat s.slen.toNat = true ∧ isPlain s.cfg s.dst.toNat s.slen.toNat = true ∧
      t = (s.setMem (s.mem.writeBytes s.dst.toNat
        (xorBytes k cv (s.mem.readBytes s.src.toNat s.slen.toNat)))).setErr 0) := by
  unfold execXor at h
  rcases withKey_next_cases h with ⟨k, hk, h⟩ | ⟨_, h⟩
  · rcases withCounter_next_cases h with ⟨cv, hc, h⟩ | ⟨_, h⟩
    · rcases require_next_cases h with ⟨h0, h⟩ | ⟨_, h⟩
      · rcases require_next_cases h with ⟨h1, h⟩ | ⟨_, h⟩
        · rcases require_next_cases h with ⟨h2, h⟩ | ⟨_, h⟩
          · rcases require_next_cases h with ⟨h3, h⟩ | ⟨_, h⟩
            · obtain ⟨h4, h⟩ := requirePlain_next_cases h
              obtain ⟨h5, h⟩ := requirePlain_next_cases h
              simp only [Bool.and_eq_true] at h2 h3
              exact .inr ⟨k, cv, hk, hc, by simpa using h0, h1, h2.1, h2.2, h3.1, h3.2, h4, h5,
                by simpa [eq_comm] using h⟩
            · exact .inl ⟨_, h⟩
          · exact .inl ⟨_, h⟩
        · exact .inl ⟨_, h⟩
      · exact .inl ⟨_, h⟩
    · exact .inl ⟨_, h⟩
  · exact .inl ⟨_, h⟩

/-- Which field a command writes: `ERR` alone, or `ERR` 0 with the one register file or the output region that
belongs to it. -/
theorem exec_cases {i : Instr} (h : exec i s = .next t) :
    (∃ e : CmdError, t = s.setErr e.code) ∨
    (i = .ldkey ∧ ∃ k, t = (s.setK (some k)).setErr 0) ∨
    (i = .ldctr ∧ ∃ cv, t = (s.setC (some cv)).setErr 0) ∨
    (i = .ctrnext ∧ ∃ cv next, s.c = some cv ∧ nextCounter cv = some next ∧ t = (s.setC (some next)).setErr 0) ∨
    (i = .block ∧ ∃ b, t = (s.setB (some b)).setErr 0) ∨
    ((i = .ksgen ∨ i = .xor) ∧ ∃ out : List Byte, out.length = s.dlen.toNat ∧
      s.dst.toNat + out.length ≤ 2 ^ s.cfg.aw.val ∧ t = (s.setMem (s.mem.writeBytes s.dst.toNat out)).setErr 0) := by
  cases i with
  | ldkey =>
    rcases execLdkey_cases h with h | ⟨_, _, _, _, h⟩
    · exact .inl h
    · exact .inr (.inl ⟨rfl, _, h⟩)
  | ldctr =>
    rcases execLdctr_cases h with h | ⟨_, _, _, _, h⟩
    · exact .inl h
    · exact .inr (.inr (.inl ⟨rfl, _, h⟩))
  | ctrnext =>
    rcases execCtrnext_cases h with h | h
    · exact .inl h
    · exact .inr (.inr (.inr (.inl ⟨rfl, h⟩)))
  | block =>
    rcases execBlock_cases h with h | ⟨_, _, _, _, h⟩
    · exact .inl h
    · exact .inr (.inr (.inr (.inr (.inl ⟨rfl, _, h⟩))))
  | ksgen =>
    rcases execKsgen_cases h with h | ⟨_, _, _, _, _, hr, _, _, h⟩
    · exact .inl h
    · have := ((inRange_iff _ _ _).mp hr).2
      exact .inr (.inr (.inr (.inr (.inr ⟨.inl rfl, _, by simp, by simpa using this, h⟩))))
  | xor =>
    rcases execXor_cases h with h | ⟨_, _, _, _, hl, _, _, hr, _, _, _, _, h⟩
    · exact .inl h
    · have := ((inRange_iff _ _ _).mp hr).2
      exact .inr (.inr (.inr (.inr (.inr ⟨.inr rfl, _, by simp [hl], by simpa using this, h⟩))))

end Sys2Proof.Machine
end

