-- ==== Sys2Proof/Laws/PerInstr.lean ====
section
/-! SUPPORT. Per-command statements about the encoding (30_encoding.md R80, R84): the reserved bits of every command
word are 0, and its `op` is one of the six assigned numbers. -/

namespace Sys2Proof.Laws.CommandWord

/-- The command's word has a legal field in every position. -/
def Statement (i : Instr) : Prop := (fieldsOf (encode i)).WellFormed

theorem ldkey : Statement .ldkey := by unfold Statement; decide
theorem ldctr : Statement .ldctr := by unfold Statement; decide
theorem ctrnext : Statement .ctrnext := by unfold Statement; decide
theorem block : Statement .block := by unfold Statement; decide
theorem ksgen : Statement .ksgen := by unfold Statement; decide
theorem xor : Statement .xor := by unfold Statement; decide

end Sys2Proof.Laws.CommandWord
end

