-- ==== Sys2Proof/Laws/Step.lean ====
section
/-! SUPPORT. Everything a step can do: the register map both ways, the host's lines, and the step itself. -/

namespace Sys2Proof.Machine

variable {s t : State}

/-- Every register is found at its own offset. -/
@[simp] theorem regAt_offset (r : Reg) : regAt r.offset = some r := by
  cases r with
  | ctr i => revert i; decide
  | blk i => revert i; decide
  | _ => rfl

/-- The register found at an offset has that offset. -/
theorem offset_of_regAt {off : Nat} {r : Reg} (h : regAt off = some r) : off = r.offset := by
  unfold regAt at h
  split_ifs at h with h0 h1 h2 h3 h4 h5 h6 h7 h8 <;> injection h with h <;> subst h
  all_goals first
    | (simp only [Reg.offset]; assumption)
    | (simp only [Reg.offset, Fin.ofNat]; omega)

theorem regAt_eq_some_iff {off : Nat} {r : Reg} : regAt off = some r ↔ off = r.offset :=
  ⟨offset_of_regAt, fun h => h ▸ regAt_offset r⟩

theorem command_ok {w : Word} {i : Instr} (h : decode w = .ok i) : command w s = exec i s := by
  simp [command, h]

theorem command_error {w : Word} {e : DecodeError} (h : decode w = .error e) :
    command w s = .next (s.setErr CmdError.illegalCommand.code) := by
  simp [command, h]

/-- A command step performs a command, or raises `IllegalCommand`. -/
theorem command_cases {w : Word} (h : command w s = .next t) :
    (∃ i, decode w = .ok i ∧ exec i s = .next t) ∨
    (∃ e, decode w = .error e ∧ t = s.setErr CmdError.illegalCommand.code) := by
  cases hd : decode w with
  | ok i => exact .inl ⟨i, rfl, by rwa [command_ok hd] at h⟩
  | error e =>
    rw [command_error hd] at h
    exact .inr ⟨e, rfl, by injection h with h; exact h.symm⟩

/-- What a register write can do: run a command, store an operand, or nothing. -/
theorem writeReg_cases {off : Nat} {v : Word} (h : writeReg s off v = .next t) :
    (off = Reg.cmd.offset ∧ command v s = .next t) ∨
    (off = Reg.src.offset ∧ t = s.setSrc v) ∨ (off = Reg.slen.offset ∧ t = s.setSlen v) ∨
    (off = Reg.dst.offset ∧ t = s.setDst v) ∨ (off = Reg.dlen.offset ∧ t = s.setDlen v) ∨
    (off = Reg.arg.offset ∧ t = s.setArg v) ∨
    (off ≠ Reg.cmd.offset ∧ t = s) := by
  unfold writeReg at h
  split at h <;> rename_i hr
  · exact .inl ⟨offset_of_regAt hr, h⟩
  · exact .inr (.inl ⟨offset_of_regAt hr, by injection h with h; exact h.symm⟩)
  · exact .inr (.inr (.inl ⟨offset_of_regAt hr, by injection h with h; exact h.symm⟩))
  · exact .inr (.inr (.inr (.inl ⟨offset_of_regAt hr, by injection h with h; exact h.symm⟩)))
  · exact .inr (.inr (.inr (.inr (.inl ⟨offset_of_regAt hr, by injection h with h; exact h.symm⟩))))
  · exact .inr (.inr (.inr (.inr (.inr (.inl ⟨offset_of_regAt hr, by injection h with h; exact h.symm⟩)))))
  all_goals
    refine .inr (.inr (.inr (.inr (.inr (.inr ⟨?_, by injection h with h; exact h.symm⟩)))))
    rintro rfl
    simp at hr

/-- A direct access of the host that answers a next state stayed in the address space and in plain memory. -/
theorem hostMem_next_cases {a n : Nat} {go : Host.Outcome State Fault Refusal} (h : hostMem s a n go = .next t) :
    a + n ≤ 2 ^ s.cfg.aw.val ∧ isPlain s.cfg a n = true ∧ go = .next t := by
  unfold hostMem at h
  split at h
  · rename_i ha
    exact ⟨ha, requirePlain_next_cases h⟩
  · cases h

/-- What one line of the host's script can do. -/
theorem perform_cases {act : HostAction} (h : perform act s = .next t) :
    (∃ off v, act = .wr off .word v ∧ off % 4 = 0 ∧ writeReg s off v = .next t) ∨
    (∃ off, act = .rd off .word ∧ off % 4 = 0 ∧ t = s.setObs (s.obs ++ [.reg off (readReg s off)])) ∨
    (∃ a bytes, act = .mw a bytes ∧ a + bytes.length ≤ 2 ^ s.cfg.aw.val ∧ isPlain s.cfg a bytes.length = true ∧
      t = s.setMem (s.mem.writeBytes a bytes)) ∨
    (∃ a n, act = .mr a n ∧ a + n ≤ 2 ^ s.cfg.aw.val ∧ isPlain s.cfg a n = true ∧
      t = s.setObs (s.obs ++ [.mem a (s.mem.readBytes a n)])) ∨
    (act = .reset ∧ t = applyReset s) := by
  cases act with
  | wr off size v =>
    simp only [perform] at h
    split at h
    · rename_i hd
      simp only [regAccessDefined, Bool.and_eq_true, beq_iff_eq] at hd
      obtain ⟨rfl, hd⟩ := hd
      exact .inl ⟨off, v, rfl, hd, h⟩
    · cases h
  | rd off size =>
    simp only [perform] at h
    split at h
    · rename_i hd
      simp only [regAccessDefined, Bool.and_eq_true, beq_iff_eq] at hd
      obtain ⟨rfl, hd⟩ := hd
      injection h with h
      exact .inr (.inl ⟨off, rfl, hd, h.symm⟩)
    · cases h
  | mw a bytes =>
    obtain ⟨h1, h2, h⟩ := hostMem_next_cases h
    injection h with h
    exact .inr (.inr (.inl ⟨a, bytes, rfl, h1, h2, h.symm⟩))
  | mr a n =>
    obtain ⟨h1, h2, h⟩ := hostMem_next_cases h
    injection h with h
    exact .inr (.inr (.inr (.inl ⟨a, n, rfl, h1, h2, h.symm⟩)))
  | reset =>
    injection h with h
    exact .inr (.inr (.inr (.inr ⟨rfl, h.symm⟩)))

theorem step_nil (h : s.script = []) : step s = .next s := by simp [step, hostStep, h]

theorem step_cons {act : HostAction} {rest : List HostAction} (h : s.script = act :: rest) :
    step s = perform act (s.setScript rest) := by simp [step, hostStep, h]

/-- What a step can do: nothing, with no line left; else it performs the first line. -/
theorem step_cases (h : step s = .next t) :
    (s.script = [] ∧ t = s) ∨
    (∃ act rest, s.script = act :: rest ∧ perform act (s.setScript rest) = .next t) := by
  cases hs : s.script with
  | nil =>
    rw [step_nil hs] at h
    injection h with h
    exact .inl ⟨rfl, h.symm⟩
  | cons act rest =>
    rw [step_cons hs] at h
    exact .inr ⟨act, rest, rfl, h⟩

/-- A step at a written command word is that command. -/
theorem step_command {w : Word} {rest : List HostAction} (h : s.script = wrCmd w :: rest) :
    step s = command w (s.setScript rest) := by
  rw [step_cons h]; rfl

end Sys2Proof.Machine
end

