-- ==== Sys2Proof/Tests/Slice0.lean ====
section
/-! SUPPORT. Tests of the model against the spec's own vectors (95_test_vectors.md, named in each comment), the
refusals of the well-formedness checks, and for every obligation with hypotheses a state and operands that meet them. -/

namespace Sys2Proof.Tests

open Sys2Proof Sys2Proof.Machine

def nextOf (o : Host.Outcome State Fault Refusal) : Option State :=
  match o with
  | .next t    => some t
  | .fault _   => none
  | .refused _ => none

/-- The `ERR` a command leaves. -/
def errOf (i : Instr) (s : State) : Option Byte := (nextOf (exec i s)).map State.err

/-- Configuration `Z` of the vectors. -/
def zeroKey : Key := #v[0, 0, 0, 0, 0, 0, 0, 0]

/-- The key of configuration `T`: bytes `00 01 .. 1f` (V-LD-1). -/
def testKey : Key :=
  #v[0x03020100, 0x07060504, 0x0b0a0908, 0x0f0e0d0c, 0x13121110, 0x17161514, 0x1b1a1918, 0x1f1e1d1c]

/-- `Z` with a block counter. -/
def loaded (ctr : Word) : State := { State.reset with k := some zeroKey, c := some #v[ctr, 0, 0, 0] }

/-- `MemOK` of V-XOR-5: reads in `0x1000..0x2fff`, writes in `0x2000..0x2fff`. -/
def guarded : Config :=
  { Config.standard with
    denyRead := [⟨0, 0x1000⟩, ⟨0x3000, 0xFFFFD000⟩]
    denyWrite := [⟨0, 0x2000⟩, ⟨0x3000, 0xFFFFD000⟩] }

/-- A platform of 64 KiB with a register window and a device. -/
def narrow : Config :=
  { Config.standard with aw := 16, regWindows := [⟨0x8000, 0x100⟩], devices := [⟨0x9000, 0x100⟩] }

def withOps (s : State) (src slen dst dlen : Word) : State :=
  { s with src := src, slen := slen, dst := dst, dlen := dlen }

/-! Ill-formed terms, each refused by its check -/

theorem test_illformed_reserved_bits : ¬ CmdFields.WellFormed { op := 6, rsv := 1 } := by decide
theorem test_illformed_op_zero : ¬ CmdFields.WellFormed { op := 0, rsv := 0 } := by decide
theorem test_illformed_op_seven : ¬ CmdFields.WellFormed { op := 7, rsv := 0 } := by decide
theorem test_wellformed_op_six : CmdFields.WellFormed { op := 6, rsv := 0 } := by decide
theorem test_illformed_narrow_write : ¬ (HostAction.wr 0x08 .byte 0).WellFormed Config.standard := by decide
theorem test_illformed_misaligned_read : ¬ (HostAction.rd 0x06 .word).WellFormed Config.standard := by decide
theorem test_illformed_mw : ¬ (HostAction.mw 0xFFFFFFFF [1, 2]).WellFormed Config.standard := by decide
theorem test_illformed_mr : ¬ (HostAction.mr 0x10000 1).WellFormed narrow := by decide
theorem test_wellformed_mr : (HostAction.mr 0xFFFF 1).WellFormed narrow := by decide

/-! Decoding: R84's words written out bit by bit (`rsv` 31:8, `op` 7:0), and V-CMD-1 -/

theorem test_decode_ldkey :
    decode 0b00000000000000000000000000000001 = .ok .ldkey := by decide
theorem test_decode_ldctr :
    decode 0b00000000000000000000000000000010 = .ok .ldctr := by decide
theorem test_decode_ctrnext :
    decode 0b00000000000000000000000000000011 = .ok .ctrnext := by decide
theorem test_decode_block :
    decode 0b00000000000000000000000000000100 = .ok .block := by decide
theorem test_decode_ksgen :
    decode 0b00000000000000000000000000000101 = .ok .ksgen := by decide
theorem test_decode_xor :
    decode 0b00000000000000000000000000000110 = .ok .xor := by decide
theorem test_decode_illegal :
    decode 0x00000000 = .error .unassignedOp ∧ decode 0x00000007 = .error .unassignedOp ∧
    decode 0x000000FF = .error .unassignedOp ∧ decode 0x00000100 = .error .reservedBits ∧
    decode 0x00000106 = .error .reservedBits ∧ decode 0x80000001 = .error .reservedBits := by decide
theorem test_table_word : decodeTableWord 32 5 = some .ksgen ∧ decodeTableWord 32 7 = none := by decide
/-- 95_test_vectors.md V-CMD-1: 5, not 6, after reset. -/
theorem test_illegal_after_reset :
    (nextOf (step (State.reset.withFetchWord 32 7))).map statusWord = some 0x00000005 := by decide
theorem test_fetch_word_runs :
    (nextOf (step (State.reset.withFetchWord 32 6))).map statusWord = some 0x00000006 := by decide

/-! The pure functions -/

/-- V-ROT. -/
theorem test_rotl :
    rotl32 0x12345678 12 = 0x45678123 ∧ rotl32 0x12345678 7 = 0x1a2b3c09 ∧ rotl32 0x80000000 1 = 1 := by decide
/-- V-QR-1. -/
theorem test_quarter_round :
    quarterRound 0x11111111 0x01020304 0x9b8d6f43 0x01234567 =
      (0xea2a92f4, 0xcb1cf8ce, 0x4581472e, 0x5881c4bb) := by decide
/-- V-QR-2, second row. -/
theorem test_quarter_round_wraps :
    quarterRound 0xffffffff 0xffffffff 0xffffffff 0xffffffff =
      (0xf0000ffd, 0x88790878, 0x0110fdef, 0x010ffdf0) := by decide
/-- V-BLK-1: the state after the first double round. -/
theorem test_double_round :
    doubleRound (initState testKey #v[1, 0x09000000, 0x4a000000, 0]) =
      #v[0xcd52e917, 0x85ab03b4, 0xb3457395, 0xf96de7dd, 0xc4b7cd22, 0x5c2e187a, 0xc95eb461, 0x316c801a,
         0x7bf7d740, 0x7eddd644, 0xf1a1bdf5, 0x761246ca, 0x6b0d58a3, 0x6798471a, 0xd737f167, 0xf173888d] := by
  decide +kernel
/-- V-KS-1. -/
theorem test_blocks_needed :
    [0, 1, 64, 65, 0xFFFFFFC0, 0xFFFFFFC1].map blocksNeeded = [0, 1, 1, 2, 0x03FFFFFF, 0x04000000] := by decide

/-! One step of each command -/

/-- V-LD-1, with the key bytes `00 01 .. 1f` at `0x1000`. -/
theorem test_ldkey :
    (nextOf (exec .ldkey (withOps (State.reset.setMem
      (Memory.writeBytes [] 0x1000 ((List.range 32).map (BitVec.ofNat 8)))) 0x1000 32 0 0))).map
        (fun t => (t.k, statusWord t)) = some (some testKey, 0x00000100) := by decide +kernel
/-- V-LD-1, the rows of the error table. -/
theorem test_ldkey_errors :
    errOf .ldkey (withOps State.reset 0xFFFFFFF0 31 0 0) = some 1 ∧
    errOf .ldkey (withOps State.reset 0xFFFFFFF0 32 0 0) = some 8 ∧
    errOf .ldkey (withOps State.reset 0xFFFFFFE0 32 0 0) = some 0 ∧
    errOf .ldkey { withOps State.reset 0x800 32 0 0 with cfg := guarded } = some 9 := by decide +kernel
/-- V-LD-2. -/
theorem test_ldctr :
    (nextOf (exec .ldctr { withOps (State.reset.setMem [(0x1023, 0x09), (0x1027, 0x4a)]) 0x1020 12 0 0 with
      arg := 1 })).map (fun t => (t.c, statusWord t)) =
        some (some #v[1, 0x09000000, 0x4a000000, 0], 0x00000200) := by decide +kernel
theorem test_ldctr_errors :
    errOf .ldctr (withOps State.reset 0x1020 11 0 0) = some 2 ∧
    errOf .ldctr (withOps State.reset 0xFFFFFFF5 12 0 0) = some 8 ∧
    errOf .ldctr (withOps State.reset 0xFFFFFFF4 12 0 0) = some 0 := by decide +kernel
/-- V-CN-1, the fourth row: no key is needed. -/
theorem test_ctrnext :
    (nextOf (exec .ctrnext { State.reset with c := some #v[0xfffffffe, 0x09000000, 0x4a000000, 3] })).map
      (fun t => (t.c, t.err)) = some (some #v[0xffffffff, 0x09000000, 0x4a000000, 3], 0) := by decide
/-- V-CN-1, the first and the last row. -/
theorem test_ctrnext_errors :
    errOf .ctrnext State.reset = some 7 ∧
    (nextOf (exec .ctrnext (loaded 0xffffffff))).map (fun t => (t.c, t.err)) =
      some (some #v[0xffffffff, 0, 0, 0], 4) := by decide
/-- V-BLK-1: `BLOCK` leaves the sixteen words in `B`. -/
theorem test_block :
    (nextOf (exec .block { State.reset with k := some testKey, c := some #v[1, 0x09000000, 0x4a000000, 0] })).map
      (fun t => (t.b, statusWord t)) =
      some (some #v[0xe4e7f110, 0x15593bd1, 0x1fdd0f50, 0xc47120a3, 0xc7f4d1c7, 0x0368c033, 0x9aaa2204, 0x4e6cd4c3,
        0x466482d2, 0x09aa9f07, 0x05d7c214, 0xa2028bd9, 0xd19c12b5, 0xb94e16de, 0xe883d0cb, 0x4e3c50a2],
        0x00000700) := by decide +kernel
/-- V-BLK-5. -/
theorem test_block_errors :
    errOf .block State.reset = some 6 ∧ errOf .block { loaded 0 with c := none } = some 7 ∧
    errOf .block { loaded 0 with k := none } = some 6 := by decide
/-- V-KS-2, length 65: the last byte of the first block, the first of the second, and the byte after. -/
theorem test_ksgen :
    (nextOf (exec .ksgen (withOps (loaded 0 |>.setMem [(0x2041, 0xee)]) 0 0 0x2000 65))).map
      (fun t => (t.mem.readBytes 0x203f 3, t.c)) = some ([0x86, 0x9f, 0xee], some #v[0, 0, 0, 0]) := by
  decide +kernel
/-- V-KS-3 and V-KS-4: room, then range, then `MemOK`. -/
theorem test_ksgen_errors :
    errOf .ksgen (withOps (loaded 0xffffffff) 0 0 0xFFFFFFF0 65) = some 4 ∧
    errOf .ksgen (withOps (loaded 0xffffffff) 0 0 0x2000 0) = some 0 ∧
    errOf .ksgen (withOps (loaded 0) 0 0 0xFFFFFFF0 0x11) = some 8 ∧
    errOf .ksgen { withOps (loaded 0) 0 0 0x2ff8 9 with cfg := guarded } = some 9 := by decide
/-- V-ALIAS-3: the counterexample to ascending order. -/
theorem test_xor_overlap :
    (nextOf (exec .xor (withOps (loaded 0) 10 66 11 66))).map (fun t => t.mem.readBytes 74 3) =
      some [0x86, 0x9f, 0x07] := by decide +kernel
/-- V-XOR-5, rows 1, 2, 4, 5, 6, 7, 10, 11 and 14. -/
theorem test_xor_errors :
    errOf .xor (withOps State.reset 0 1 0 2) = some 6 ∧
    errOf .xor (withOps { loaded 0 with c := none } 0 1 0 2) = some 7 ∧
    errOf .xor (withOps (loaded 0) 0 16 0 17) = some 3 ∧
    errOf .xor (withOps (loaded 0xffffffff) 0 128 0 129) = some 3 ∧
    errOf .xor (withOps (loaded 0xffffffff) 0xFFFFFFF0 128 0 128) = some 4 ∧
    errOf .xor (withOps (loaded 0) 0xFFFFFFF0 0x20 0 0x20) = some 8 ∧
    errOf .xor (withOps (loaded 0) 0xFFFFFFFF 0 0xFFFFFFFF 0) = some 0 ∧
    errOf .xor { withOps (loaded 0) 0x2000 16 0x1800 16 with cfg := guarded } = some 9 ∧
    errOf .xor { withOps (loaded 0) 0x9000 0 0x9000 0 with cfg := guarded } = some 0 := by decide +kernel
/-- V-ALIAS-3: what ascending order would give there, and what the reference sequence gives. -/
theorem test_ascending_fails :
    (ascendingXor zeroKey #v[0, 0, 0, 0] 10 11 66 64 []).readBytes 75 1 = [0x19] := by decide +kernel
theorem test_reference_holds :
    (referenceXor zeroKey #v[0, 0, 0, 0] 10 11 66 64 []).readBytes 75 1 = [0x9f] := by decide +kernel

/-! The register interface -/

/-- V-REG-1: reading `STATUS` before anything is loaded, and a `CTRNEXT` error with both loaded. -/
theorem test_status :
    statusWord State.reset = 0 ∧ statusWord ((loaded 0xffffffff).setErr 4) = 0x00000304 := by decide
theorem test_register_offsets :
    [0x00, 0x04, 0x1C, 0x20, 0x2C, 0x30, 0x3C, 0x40, 0x7C, 0x80].map regAt =
      [some .cmd, some .status, none, some (.ctr 0), some (.ctr 3), none, none, some (.blk 0), some (.blk 15),
        none] := by decide

/-! For every obligation with hypotheses, a state and operands that meet them; each name is the obligation's -/

/-- A state with every operand at hand, about to run the script given. -/
def host (l : List HostAction) : State := withOps ((loaded 0xfffffffe).setScript l) 0x1000 32 0x2000 32

/-- The same on the narrow platform. -/
def narrowState (src slen dst dlen : Word) : State := { withOps (loaded 0) src slen dst dlen with cfg := narrow }

theorem witness_DecodeAndEncodeAgree :
    Instr.xor.WellFormed ∧ decode (encode .xor) = .ok .xor ∧ decode 0x00000206 ≠ .ok .xor := by decide

theorem witness_IllegalWordRaisesOnlyErr :
    (host [wrCmd 7]).script = wrCmd 7 :: [] ∧
    (0 : Word) ∉ ([1, 2, 3, 4, 5, 6] : List Word) ∧ (7 : Word) ∉ ([1, 2, 3, 4, 5, 6] : List Word) ∧
    (0x101 : Word) ∉ ([1, 2, 3, 4, 5, 6] : List Word) := by decide

theorem witness_StepRunsDecodedCommand :
    (host [wrCmd 6, .reset]).script = wrCmd 6 :: [.reset] ∧ decode 6 = .ok .xor ∧ Instr.xor.WellFormed := by decide

theorem witness_StepConsumesOneLine : ∃ t, step (host [wrCmd 4, rdReg .status]) = .next t := ⟨_, rfl⟩

theorem witness_LdkeyMeaning :
    isPlain (narrowState 0x7FE0 32 0 0).cfg (narrowState 0x7FE0 32 0 0).src.toNat 32 = true := by decide

theorem witness_LdctrMeaning :
    isPlain (narrowState 0x8100 12 0 0).cfg (narrowState 0x8100 12 0 0).src.toNat 12 = true := by decide

theorem witness_KsgenMeaning :
    ¬((narrowState 0 0 0xFFFF 1).dlen = 0 ∧
      (narrowState 0 0 0xFFFF 1).dst.toNat = 2 ^ (narrowState 0 0 0xFFFF 1).cfg.aw.val) ∧
    isPlain (narrowState 0 0 0xFFFF 1).cfg (narrowState 0 0 0xFFFF 1).dst.toNat
      (narrowState 0 0 0xFFFF 1).dlen.toNat = true := by decide

theorem witness_XorMeaning :
    ¬((narrowState 0xFFFF 1 0x7FFF 1).slen = 0 ∧
      ((narrowState 0xFFFF 1 0x7FFF 1).src.toNat = 2 ^ (narrowState 0xFFFF 1 0x7FFF 1).cfg.aw.val ∨
        (narrowState 0xFFFF 1 0x7FFF 1).dst.toNat = 2 ^ (narrowState 0xFFFF 1 0x7FFF 1).cfg.aw.val)) ∧
    isPlain (narrowState 0xFFFF 1 0x7FFF 1).cfg (narrowState 0xFFFF 1 0x7FFF 1).src.toNat
      (narrowState 0xFFFF 1 0x7FFF 1).slen.toNat = true ∧
    isPlain (narrowState 0xFFFF 1 0x7FFF 1).cfg (narrowState 0xFFFF 1 0x7FFF 1).dst.toNat
      (narrowState 0xFFFF 1 0x7FFF 1).slen.toNat = true := by decide

/-- The four clauses, each at the first address that does not exist; the last one also at length 0. -/
theorem witness_HighAddressBitsRaiseAddressRange :
    ((narrowState 0x10000 32 0 0).slen = 32 ∧ 2 ^ narrow.aw.val ≤ (narrowState 0x10000 32 0 0).src.toNat) ∧
    ((narrowState 0x10000 12 0 0).slen = 12 ∧ 2 ^ narrow.aw.val ≤ (narrowState 0x10000 12 0 0).src.toNat) ∧
    ((narrowState 0 0 0x10000 0).k = some zeroKey ∧ (narrowState 0 0 0x10000 0).c = some #v[0, 0, 0, 0] ∧
      blocksNeeded (narrowState 0 0 0x10000 0).dlen.toNat ≤ 2 ^ 32 - (0 : Word).toNat ∧
      2 ^ narrow.aw.val ≤ (narrowState 0 0 0x10000 0).dst.toNat) ∧
    ((narrowState 0x10000 0 5 0).k = some zeroKey ∧ (narrowState 0x10000 0 5 0).c = some #v[0, 0, 0, 0] ∧
      (narrowState 0x10000 0 5 0).slen = (narrowState 0x10000 0 5 0).dlen ∧
      blocksNeeded (narrowState 0x10000 0 5 0).slen.toNat ≤ 2 ^ 32 - (0 : Word).toNat ∧
      2 ^ narrow.aw.val ≤ (narrowState 0x10000 0 5 0).src.toNat) := by decide

/-- The three outcomes: a next state, the register window, the device window. -/
theorem witness_CommandsRefuseOnlyWindows :
    (∃ t, exec .ldkey (narrowState 0x7FE0 32 0 0) = .next t ∧ t.err = 0) ∧
    exec .ldkey (narrowState 0x7FE1 32 0 0) = .refused .registerWindow ∧
    exec .ksgen (narrowState 0 0 0x90FF 1) = .refused .deviceWindow := ⟨⟨_, rfl, rfl⟩, rfl, rfl⟩

theorem witness_LdkeyLoadsLittleEndianKey :
    (narrowState 0xFFE0 32 0 0).slen = 32 ∧ (narrowState 0xFFE0 32 0 0).src.toNat + 32 ≤ 2 ^ narrow.aw.val ∧
    memOK narrow .read (narrowState 0xFFE0 32 0 0).src.toNat 32 = true ∧
    isPlain narrow (narrowState 0xFFE0 32 0 0).src.toNat 32 = true := by decide

theorem witness_LdctrBuildsCounter :
    (narrowState 0xFFF4 12 0 0).slen = 12 ∧ (narrowState 0xFFF4 12 0 0).src.toNat + 12 ≤ 2 ^ narrow.aw.val ∧
    memOK narrow .read (narrowState 0xFFF4 12 0 0).src.toNat 12 = true ∧
    isPlain narrow (narrowState 0xFFF4 12 0 0).src.toNat 12 = true := by decide

/-- Both clauses, at the last counter that advances and at the one that does not. -/
theorem witness_CtrnextAdvancesBlockCounter :
    (∃ cv, (loaded 0xfffffffe).c = some cv ∧ cv[0].toNat < 0xFFFFFFFF) ∧
    (∃ cv, (loaded 0xffffffff).c = some cv ∧ cv[0].toNat = 0xFFFFFFFF) := ⟨⟨_, rfl, by decide⟩, ⟨_, rfl, by decide⟩⟩

theorem witness_BlockDeliversFeedForward :
    (loaded 0xffffffff).k = some zeroKey ∧ (loaded 0xffffffff).c = some #v[0xffffffff, 0, 0, 0] := by decide

/-- The last two blocks there are, written to the last 128 bytes there are. -/
def lastBlocks : State := withOps (loaded 0xfffffffe) 0 0 0xFFFFFF80 128

theorem witness_KsgenWritesKeystreamBytes :
    lastBlocks.k = some zeroKey ∧ lastBlocks.c = some #v[0xfffffffe, 0, 0, 0] ∧
    blocksNeeded lastBlocks.dlen.toNat ≤ 2 ^ 32 - (#v[0xfffffffe, 0, 0, 0] : Counter)[0].toNat ∧
    lastBlocks.dst.toNat < 2 ^ lastBlocks.cfg.aw.val ∧
    lastBlocks.dst.toNat + lastBlocks.dlen.toNat ≤ 2 ^ lastBlocks.cfg.aw.val ∧
    memOK lastBlocks.cfg .write lastBlocks.dst.toNat lastBlocks.dlen.toNat = true ∧
    isPlain lastBlocks.cfg lastBlocks.dst.toNat lastBlocks.dlen.toNat = true := by decide

/-- On the platform of V-XOR-5, the last block there is: input `0x2F81..0x2FC0`, output `0x2FC0..0x2FFF`, which share
the one byte `0x2FC0`; the output ends at the top of what may be written. -/
def overlap : State := { withOps (loaded 0xffffffff) 0x2F81 64 0x2FC0 64 with cfg := guarded }

theorem witness_XorMeetsAliasingContract :
    overlap.k = some zeroKey ∧ overlap.c = some #v[0xffffffff, 0, 0, 0] ∧ overlap.slen = overlap.dlen ∧
    blocksNeeded overlap.slen.toNat ≤ 2 ^ 32 - (#v[0xffffffff, 0, 0, 0] : Counter)[0].toNat ∧
    overlap.src.toNat < 2 ^ overlap.cfg.aw.val ∧
    overlap.src.toNat + overlap.slen.toNat ≤ 2 ^ overlap.cfg.aw.val ∧
    overlap.dst.toNat < 2 ^ overlap.cfg.aw.val ∧
    overlap.dst.toNat + overlap.slen.toNat ≤ 2 ^ overlap.cfg.aw.val ∧
    memOK overlap.cfg .read overlap.src.toNat overlap.slen.toNat = true ∧
    memOK overlap.cfg .write overlap.dst.toNat overlap.slen.toNat = true ∧
    isPlain overlap.cfg overlap.src.toNat overlap.slen.toNat = true ∧
    isPlain overlap.cfg overlap.dst.toNat overlap.slen.toNat = true ∧
    (overlap.src.toNat < overlap.dst.toNat ∧ overlap.dst.toNat < overlap.src.toNat + overlap.slen.toNat) := by decide

/-- Each of the four commands, completing; and `CTRNEXT` with a counter before and after. -/
theorem witness_RegisterCommandsFrame :
    (∃ t, exec .ldkey (withOps (loaded 0) 0 32 0 0) = .next t ∧ t.err = 0) ∧
    (∃ t, exec .ldctr (withOps (loaded 0) 0 12 0 0) = .next t ∧ t.err = 0) ∧
    (∃ t cv cv', exec .ctrnext (loaded 0xfffffffe) = .next t ∧ (loaded 0xfffffffe).c = some cv ∧ t.c = some cv') ∧
    (∃ t, exec .block (loaded 0) = .next t ∧ t.err = 0) :=
  ⟨⟨_, rfl, rfl⟩, ⟨_, rfl, rfl⟩, ⟨_, _, _, rfl, rfl, rfl⟩, ⟨_, rfl, rfl⟩⟩

theorem witness_MemoryCommandsFrame :
    (∃ t, exec .ksgen (withOps (loaded 0) 0 0 0xFFFFFFFF 1) = .next t ∧ t.err = 0) ∧
    (∃ t, exec .xor (withOps (loaded 0) 0xFFFFFFFE 1 0xFFFFFFFF 1) = .next t ∧ t.err = 0) :=
  ⟨⟨_, rfl, rfl⟩, ⟨_, rfl, rfl⟩⟩

theorem witness_FailedCommandChangesOnlyErr :
    ∃ t, exec .xor (withOps (loaded 0) 0 16 0 17) = .next t ∧ t.err ≠ 0 := ⟨_, rfl, by decide⟩

theorem witness_FailedCommandRepeats :
    ∃ t, exec .ksgen (withOps (loaded 0xffffffff) 0 0 0 65) = .next t ∧ t.err ≠ 0 := ⟨_, rfl, by decide⟩

/-- Each command, completing; and those whose clause tells success from failure, failing. -/
theorem witness_UnreadRegistersDoNotMatter :
    (∃ t, exec .ldkey (withOps (loaded 0) 0 32 1 2) = .next t ∧ t.err = 0) ∧
    (∃ t, exec .ldkey (withOps (loaded 0) 0 31 1 2) = .next t ∧ t.err ≠ 0) ∧
    (∃ t, exec .ldctr (withOps (loaded 0) 0 12 1 2) = .next t ∧ t.err = 0) ∧
    (∃ t, exec .ldctr (withOps (loaded 0) 0 13 1 2) = .next t ∧ t.err ≠ 0) ∧
    (∃ t, exec .ctrnext (loaded 0) = .next t ∧ t.err = 0) ∧
    (∃ t, exec .block (loaded 0) = .next t ∧ t.err = 0) ∧
    (∃ t, exec .block ((loaded 0).setC none) = .next t ∧ t.err ≠ 0) ∧
    (∃ t, exec .ksgen (withOps (loaded 0) 1 2 3 4) = .next t ∧ t.err = 0) ∧
    (∃ t, exec .xor (withOps (loaded 0) 1 4 3 4) = .next t ∧ t.err = 0) :=
  ⟨⟨_, rfl, rfl⟩, ⟨_, rfl, by decide⟩, ⟨_, rfl, rfl⟩, ⟨_, rfl, by decide⟩, ⟨_, rfl, rfl⟩, ⟨_, rfl, rfl⟩,
    ⟨_, rfl, by decide⟩, ⟨_, rfl, rfl⟩, ⟨_, rfl, rfl⟩⟩

theorem witness_StepKeepsInvariant :
    (host [.mw 0xFFFFFFFF [7]]).Inv ∧ ∃ t, step (host [.mw 0xFFFFFFFF [7]]) = .next t := ⟨by decide, _, rfl⟩

theorem witness_ResetEventKeepsMemory : (host [.reset, wrCmd 4]).script = .reset :: [wrCmd 4] := rfl

theorem witness_OnlyResetClearsValidBits :
    ∃ t, step ((host [wrCmd 4]).setB (some (Vector.replicate 16 0))) = .next t ∧
      (∀ rest, (host [wrCmd 4]).script ≠ .reset :: rest) ∧
      ((host [wrCmd 4]).setB (some (Vector.replicate 16 0))).kv = true ∧
      ((host [wrCmd 4]).setB (some (Vector.replicate 16 0))).cv = true ∧
      ((host [wrCmd 4]).setB (some (Vector.replicate 16 0))).bv = true :=
  ⟨_, rfl, nofun, rfl, rfl, rfl⟩

/-- A command that writes the key, and a reset. -/
theorem witness_KeyWrittenOnlyByLdkey :
    (∃ t, step ((host [wrCmd 1]).setK none) = .next t ∧ t.k ≠ ((host [wrCmd 1]).setK none).k) ∧
    (∃ t, step (host [.reset]) = .next t ∧ t.k ≠ (host [.reset]).k) :=
  ⟨⟨_, rfl, nofun⟩, ⟨_, rfl, by decide⟩⟩

theorem witness_CounterWrittenOnlyByLoaders :
    (∃ t, step ((host [wrCmd 2]).setSlen 12) = .next t ∧ t.c ≠ ((host [wrCmd 2]).setSlen 12).c) ∧
    (∃ t, step (host [wrCmd 3]) = .next t ∧ t.c ≠ (host [wrCmd 3]).c) ∧
    (∃ t, step (host [.reset]) = .next t ∧ t.c ≠ (host [.reset]).c) :=
  ⟨⟨_, rfl, by decide⟩, ⟨_, rfl, by decide⟩, ⟨_, rfl, by decide⟩⟩

theorem witness_BlockRegisterWrittenOnlyByBlock :
    ∃ t, step (host [wrCmd 4]) = .next t ∧ t.b ≠ (host [wrCmd 4]).b := 
  ⟨_, rfl, nofun⟩

theorem witness_ErrAndOperandsWrittenOnlyByTheirLines :
    (∃ t, step (host [wrCmd 0]) = .next t ∧ (∀ rest, (host [wrCmd 0]).script ≠ .reset :: rest) ∧
      t.err ≠ (host [wrCmd 0]).err) ∧
    (∃ t, step (host [wrReg .src 1]) = .next t ∧ t.src ≠ (host [wrReg .src 1]).src) ∧
    (∃ t, step (host [wrReg .slen 1]) = .next t ∧ t.slen ≠ (host [wrReg .slen 1]).slen) ∧
    (∃ t, step (host [wrReg .dst 1]) = .next t ∧ t.dst ≠ (host [wrReg .dst 1]).dst) ∧
    (∃ t, step (host [wrReg .dlen 1]) = .next t ∧ t.dlen ≠ (host [wrReg .dlen 1]).dlen) ∧
    (∃ t, step (host [wrReg .arg 1]) = .next t ∧ t.arg ≠ (host [wrReg .arg 1]).arg) :=
  ⟨⟨_, rfl, nofun, by decide⟩, ⟨_, rfl, by decide⟩, ⟨_, rfl, by decide⟩,
    ⟨_, rfl, by decide⟩, ⟨_, rfl, by decide⟩, ⟨_, rfl, by decide⟩⟩

/-- A host line that changes a byte, and a command that does (the first keystream byte is `76`). -/
theorem witness_MemoryWrittenOnlyWhereDirected :
    (∃ t, step (host [.mw 0x3000 [7]]) = .next t ∧ t.mem.readByte 0x3000 ≠ (host [.mw 0x3000 [7]]).mem.readByte 0x3000) ∧
    ((nextOf (step (withOps ((loaded 0).setScript [wrCmd 5]) 0 0 0x3000 1))).map (fun t => t.mem.readByte 0x3000)) =
      some 0x76 := ⟨⟨_, rfl, by decide⟩, by decide +kernel⟩

theorem witness_KeyValueReachesOnlyCipherCommands :
    ∃ t, step ((host [rdReg .status]).setK (some zeroKey)) = .next t ∧ zeroKey ≠ testKey ∧
      ∀ rest, (host [rdReg .status]).script ≠ wrCmd 0x00000004 :: rest ∧
        (host [rdReg .status]).script ≠ wrCmd 0x00000005 :: rest ∧
        (host [rdReg .status]).script ≠ wrCmd 0x00000006 :: rest :=
  ⟨_, rfl, by decide, fun _ => ⟨nofun, nofun, nofun⟩⟩

/-- A platform that denies the byte read, too: the host's line is well-formed all the same (log 9). -/
def denying : State :=
  { host (keyLines 0x1000 ++ [.mr 0x3000 1, .reset]) with cfg := guarded }

theorem witness_WellFormedScriptRunsToEnd :
    denying.cfg.regWindows = [] ∧ denying.cfg.devices = [] ∧ memOK denying.cfg .read 0x3000 1 = false ∧
    ∀ act ∈ denying.script, act.WellFormed denying.cfg :=
  ⟨rfl, rfl, by decide, List.forall_mem_cons.mpr ⟨rfl, List.forall_mem_cons.mpr ⟨rfl, List.forall_mem_cons.mpr ⟨rfl,
    List.forall_mem_cons.mpr ⟨by decide, List.forall_mem_cons.mpr ⟨trivial, nofun⟩⟩⟩⟩⟩⟩

theorem witness_StatusFields :
    (host [.rd 0x04 .word]).script = .rd 0x04 .word :: [] ∧
    (host [.wr 0x04 .word 0xFFFFFFFF]).script = .wr 0x04 .word 0xFFFFFFFF :: [] := by decide

/-- Counter and block registers with and without a value. -/
theorem witness_RegisterMapReads :
    State.reset.c = none ∧ State.reset.b = none ∧ (loaded 5).c = some #v[5, 0, 0, 0] ∧
    ((loaded 5).setB (some (Vector.replicate 16 9))).b = some (Vector.replicate 16 9) := by decide

/-- The first and last offset of each range. -/
theorem witness_ReservedOffsetsInert :
    (∀ off ∈ [0x04, 0x1C, 0x30, 0x3C, 0x40, 0x80], off % 4 = 0 ∧ (off = 0x04 ∨ 0x1C ≤ off)) ∧
    (∀ off ∈ [0x00, 0x1C, 0x30, 0x3C, 0x80], off = 0x00 ∨ off = 0x1C ∨ (0x30 ≤ off ∧ off < 0x40) ∨ 0x80 ≤ off) ∧
    (host [.wr 0x1C .word 1]).script = .wr 0x1C .word 1 :: [] ∧
    (host [.rd 0x3C .word]).script = .rd 0x3C .word :: [] := by decide

theorem witness_UndefinedRegisterAccessRefused :
    (AccessSize.half ≠ .word ∨ 0x08 % 4 ≠ 0) ∧ (AccessSize.word ≠ .word ∨ 0x09 % 4 ≠ 0) ∧
    (host [.wr 0x08 .half 1]).script = .wr 0x08 .half 1 :: [] ∧
    (host [.rd 0x09 .word]).script = .rd 0x09 .word :: [] := by decide

theorem witness_OperandRegistersHoldWhatIsWritten :
    ∀ r ∈ [Reg.src, .slen, .dst, .dlen, .arg],
      (r = .src ∨ r = .slen ∨ r = .dst ∨ r = .dlen ∨ r = .arg) ∧
      (host [wrReg r 0xFFFFFFFF, rdReg r]).script = wrReg r 0xFFFFFFFF :: rdReg r :: [] := by decide

/-- The narrow platform, about to perform one line. -/
def narrowHost (act : HostAction) : State := (narrowState 0 0 0 0).setScript [act]

/-- Each clause at the last address there is, one past it, and with no bytes one past it. -/
theorem witness_HostMemoryLines :
    ((narrowHost (.mw 0xFFFE [1, 2])).script = .mw 0xFFFE [1, 2] :: [] ∧
      0xFFFE + [1, 2].length ≤ 2 ^ narrow.aw.val ∧ isPlain narrow 0xFFFE [1, 2].length = true) ∧
    ((narrowHost (.mw 0xFFFF [1, 2])).script = .mw 0xFFFF [1, 2] :: [] ∧
      2 ^ narrow.aw.val < 0xFFFF + [1, 2].length ∧ 2 ^ narrow.aw.val < 0x10001 + ([] : List Byte).length) ∧
    ((narrowHost (.mr 0xFFFE 2)).script = .mr 0xFFFE 2 :: [] ∧
      0xFFFE + 2 ≤ 2 ^ narrow.aw.val ∧ isPlain narrow 0xFFFE 2 = true) ∧
    ((narrowHost (.mr 0xFFFF 2)).script = .mr 0xFFFF 2 :: [] ∧
      2 ^ narrow.aw.val < 0xFFFF + 2 ∧ 2 ^ narrow.aw.val < 0x10001 + 0) := by decide

/-- The clauses of `HostMemoryLines` about windows: the first and the last byte of each. -/
theorem witness_HostMemoryLines_windows :
    (∀ act, (narrowHost act).script = act :: []) ∧ (∀ act, (narrowHost act).cfg = narrow) ∧
    (hitsRegisters narrow 0x7FFF [1, 2].length = true ∧ 0x7FFF + [1, 2].length ≤ 2 ^ narrow.aw.val) ∧
    (hitsRegisters narrow 0x90FF [1].length = false ∧ hitsDevice narrow 0x90FF [1].length = true ∧
      0x90FF + [1].length ≤ 2 ^ narrow.aw.val) ∧
    (hitsRegisters narrow 0x80FF 1 = true ∧ 0x80FF + 1 ≤ 2 ^ narrow.aw.val) ∧
    (hitsRegisters narrow 0x8FFF 2 = false ∧ hitsDevice narrow 0x8FFF 2 = true ∧
      0x8FFF + 2 ≤ 2 ^ narrow.aw.val) := ⟨fun _ => rfl, fun _ => rfl, by decide⟩

/-- A region that ends at the last admitted byte, a part of it, and one byte more; the edges of the two windows. -/
theorem witness_MemOkMonotone :
    memOK guarded .read 0x1000 0x2000 = true ∧ 0x1000 ≤ 0x2FFF ∧ 0x2FFF + 1 ≤ 0x1000 + 0x2000 ∧
    memOK guarded .read 0x1000 0x2001 = false ∧ memOK guarded .write 0x1FFF 1 = false ∧
    memOK guarded .write 0x2000 0x1000 = true ∧
    hitsRegisters narrow 0x80FF 1 = true ∧ hitsRegisters narrow 0x8100 1 = false ∧
    hitsDevice narrow 0x8FFF 2 = true ∧ hitsDevice narrow 0x8FFF 1 = false := by decide

theorem witness_RegionRangeExact : Config.standard.aw = 32 := by decide

theorem witness_LittleEndianInverse : ([1, 2, 3, 4] : List Byte).length = 4 := by decide

theorem witness_RotationMovesBitsLeft : 0 < 31 ∧ 31 < 32 ∧ 31 < 32 := by decide

/-- The twelve steps of V-QR-1, as the spec prints them. -/
theorem witness_QuarterRoundBijective :
    (0x12131415 : Word) = 0x11111111 + 0x01020304 ∧
    (0x51721330 : Word) = rotl32 (0x01234567 ^^^ 0x12131415) 16 ∧
    (0xecff8273 : Word) = 0x9b8d6f43 + 0x51721330 ∧
    (0xd8177edf : Word) = rotl32 (0x01020304 ^^^ 0xecff8273) 12 ∧
    (0xea2a92f4 : Word) = 0x12131415 + 0xd8177edf ∧
    (0x5881c4bb : Word) = rotl32 (0x51721330 ^^^ 0xea2a92f4) 8 ∧
    (0x4581472e : Word) = 0xecff8273 + 0x5881c4bb ∧
    (0xcb1cf8ce : Word) = rotl32 (0xd8177edf ^^^ 0x4581472e) 7 := by decide

theorem witness_QuarterRoundAtTouchesFourWords :
    ([3, 4, 9, 14] : List (Fin 16)).Nodup ∧ (15 : Fin 16) ∉ ([3, 4, 9, 14] : List (Fin 16)) := by decide

/-- Eight distinct words; the lanes of a column round in another order, and those of a diagonal round. -/
theorem witness_DisjointQuarterRoundsCommute :
    ([0, 4, 8, 12, 3, 7, 11, 15] : List (Fin 16)).Nodup ∧
    ([(3, 7, 11, 15), (0, 4, 8, 12), (2, 6, 10, 14), (1, 5, 9, 13)] : List (Fin 16 × Fin 16 × Fin 16 × Fin 16)).Perm
      [(0, 4, 8, 12), (1, 5, 9, 13), (2, 6, 10, 14), (3, 7, 11, 15)] ∧
    ([(3, 4, 9, 14), (0, 5, 10, 15), (2, 7, 8, 13), (1, 6, 11, 12)] : List (Fin 16 × Fin 16 × Fin 16 × Fin 16)).Perm
      [(0, 5, 10, 15), (1, 6, 11, 12), (2, 7, 8, 13), (3, 4, 9, 14)] := by decide

theorem witness_BlockByteLayout : 63 < 64 := by decide

theorem witness_CounterAtIteratesNext :
    1 < 2 ^ 32 - (#v[0xfffffffe, 0, 0, 0] : Counter)[0].toNat ∧
    0 + 1 < 2 ^ 32 - (#v[0xfffffffe, 0, 0, 0] : Counter)[0].toNat := by decide

/-- The two premises about the counter, each at its boundary. -/
theorem witness_CounterRoomExact :
    (0xFFFFFFFF < 2 ^ 32 ∧ (#v[0xfc000000, 0, 0, 0] : Counter)[0].toNat ≤ 0xFC000000) ∧
    (#v[0xffffffff, 0, 0, 0] : Counter)[0].toNat = 0xFFFFFFFF := by decide

theorem witness_KeystreamPrefixAndContinuation :
    blocksNeeded 128 ≤ 2 ^ 32 - (#v[0xfffffffe, 0, 0, 0] : Counter)[0].toNat ∧ 127 ≤ 128 ∧ 128 = 64 * 1 + 64 := by
  decide

theorem witness_XorBytesLaws :
    blocksNeeded (List.replicate 128 (7 : Byte)).length ≤ 2 ^ 32 - (#v[0xfffffffe, 0, 0, 0] : Counter)[0].toNat ∧
    127 ≤ (List.replicate 128 (7 : Byte)).length ∧ 64 * 2 ≤ (List.replicate 128 (7 : Byte)).length := by decide +kernel

theorem witness_XorTwiceInPlaceRestores :
    ∃ t, (withOps (loaded 0) 0x3000 66 0x3000 66).mem.wf ∧
      (withOps (loaded 0) 0x3000 66 0x3000 66).src = (withOps (loaded 0) 0x3000 66 0x3000 66).dst ∧
      exec .xor (withOps (loaded 0) 0x3000 66 0x3000 66) = .next t ∧ t.err = 0 := ⟨_, by decide, rfl, rfl, rfl⟩

/-- Three zero bytes at `0x3000`, and an output region that overlaps them. -/
def zeros : State := withOps (loaded 0) 0x3000 0 0x3001 3

theorem witness_KsgenIsXorOfZeros :
    (∃ t, exec .ksgen zeros = .next t ∧ t.err = 0) ∧
    zeros.src.toNat < 2 ^ zeros.cfg.aw.val ∧ zeros.src.toNat + zeros.dlen.toNat ≤ 2 ^ zeros.cfg.aw.val ∧
    memOK zeros.cfg .read zeros.src.toNat zeros.dlen.toNat = true ∧
    isPlain zeros.cfg zeros.src.toNat zeros.dlen.toNat = true ∧
    ∀ i, i < zeros.dlen.toNat → zeros.mem.readByte (zeros.src.toNat + i) = 0 :=
  ⟨⟨_, rfl, rfl⟩, by decide, by decide, by decide, by decide, by decide⟩

theorem witness_XorOverlapInvariance :
    ∃ t u, exec .xor (withOps (loaded 0) 0x3000 66 0x3001 66) = .next t ∧
      exec .xor ((withOps (loaded 0) 0x3000 66 0x3001 66).setDst 0x4000) = .next u ∧ t.err = 0 ∧ u.err = 0 :=
  ⟨_, _, rfl, rfl, rfl, rfl⟩

theorem witness_ChunkSequenceMeetsSnapshot :
    Memory.wf [(0x4000, 1)] ∧ 0 < 64 ∧ 64 % 64 = 0 ∧
    blocksNeeded 128 ≤ 2 ^ 32 - (#v[0xfffffffe, 0, 0, 0] : Counter)[0].toNat := by decide

/-- An overlap that ascending order gets wrong, and one of a single chunk that it does not. -/
theorem witness_AscendingOrderFailsExactly :
    Memory.wf [(0x4000, 1)] ∧ 0 < 64 ∧ 64 % 64 = 0 ∧
    blocksNeeded 66 ≤ 2 ^ 32 - (#v[0, 0, 0, 0] : Counter)[0].toNat ∧
    (10 < 11 ∧ 11 < 10 + 66 ∧ 64 < 66) ∧ ¬(10 < 11 ∧ 11 < 10 + 64 ∧ 64 < 64) := by decide

theorem witness_DisjointInstancesCommute :
    ∃ t t', Memory.wf [(0x1000, 1)] ∧
      exec .xor ((withOps (loaded 0) 0x1000 8 0x1008 8).setMem [(0x1000, 1)]) = .next t ∧
      exec .ldkey ((withOps (loaded 0) 0x1010 32 0 0).setMem [(0x1000, 1)]) = .next t' ∧ t.err = 0 ∧ t'.err = 0 ∧
      Span.disjoint (writeSpan .xor (withOps (loaded 0) 0x1000 8 0x1008 8))
        (writeSpan .ldkey (withOps (loaded 0) 0x1010 32 0 0)) ∧
      Span.disjoint (writeSpan .xor (withOps (loaded 0) 0x1000 8 0x1008 8))
        (readSpan .ldkey (withOps (loaded 0) 0x1010 32 0 0)) ∧
      Span.disjoint (readSpan .xor (withOps (loaded 0) 0x1000 8 0x1008 8))
        (writeSpan .ldkey (withOps (loaded 0) 0x1010 32 0 0)) :=
  ⟨_, _, by decide, rfl, rfl, rfl, rfl, by simp [Span.disjoint, writeSpan, withOps],
    by simp [Span.disjoint, readSpan, writeSpan, withOps]; omega,
    by simp [Span.disjoint, readSpan, writeSpan, withOps]⟩

end Sys2Proof.Tests
end

section
/-! The proofs of the statements on the state and the register interface (10_state.md).

`LineEffect` says once what a completed line of the host's script does to the state; the invariant and the rules on
who may write which register are read off it case by case. -/

namespace Sys2Proof.Machine

variable {s t : State} {act : HostAction}

/-! The decoder -/

/-- The two fields of R80 make up the command word. -/
theorem toNat_eq_fields (w : Word) : w.toNat = (fieldsOf w).op.toNat + 2 ^ 8 * (fieldsOf w).rsv.toNat := by
  simp only [fieldsOf, BitVec.extractLsb'_toNat, Nat.shiftRight_eq_div_pow]
  omega

theorem toNat_encode_of_commandOfOp {op : BitVec 8} {i : Instr} (h : commandOfOp op = some i) :
    (encode i).toNat = op.toNat := by
  unfold commandOfOp at h
  split at h <;> rename_i hop
  case h_7 => cases h
  all_goals
    cases h
    rw [hop]
    rfl

/-- A word that decodes is the command's own word (R83). -/
theorem eq_encode_of_decode {w : Word} {i : Instr} (h : decode w = .ok i) : w = encode i := by
  unfold decode at h
  split at h
  · cases h
  · rename_i hrsv
    split at h
    · rename_i j hj
      cases h
      apply BitVec.eq_of_toNat_eq
      rw [toNat_eq_fields w, not_not.mp hrsv, toNat_encode_of_commandOfOp hj]
      rfl
    · cases h

/-! Storing to a register -/

/-- What a write to a register other than `CMD` leaves: an operand register stores the value, every other register
ignores it (R28, R34). -/
def State.setOperand (s : State) (r : Reg) (v : Word) : State :=
  match r with
  | .src  => s.setSrc v
  | .slen => s.setSlen v
  | .dst  => s.setDst v
  | .dlen => s.setDlen v
  | .arg  => s.setArg v
  | _     => s

/-- The five operand registers (R28). -/
abbrev Reg.IsOperand (r : Reg) : Prop := r = .src ∨ r = .slen ∨ r = .dst ∨ r = .dlen ∨ r = .arg

theorem writeReg_offset (s : State) {r : Reg} (v : Word) (hr : r ≠ .cmd) :
    writeReg s r.offset v = .next (s.setOperand r v) := by
  cases r with
  | cmd => exact absurd rfl hr
  | _ => simp [writeReg, State.setOperand]

theorem writeReg_reserved (s : State) {off : Nat} (v : Word) (h : regAt off = none) :
    writeReg s off v = .next s := by
  simp [writeReg, h]

section
variable (s) (r : Reg) (v : Word)

@[simp] theorem State.setOperand_cfg : (s.setOperand r v).cfg = s.cfg := by cases r <;> rfl
@[simp] theorem State.setOperand_k : (s.setOperand r v).k = s.k := by cases r <;> rfl
@[simp] theorem State.setOperand_c : (s.setOperand r v).c = s.c := by cases r <;> rfl
@[simp] theorem State.setOperand_b : (s.setOperand r v).b = s.b := by cases r <;> rfl
@[simp] theorem State.setOperand_err : (s.setOperand r v).err = s.err := by cases r <;> rfl
@[simp] theorem State.setOperand_mem : (s.setOperand r v).mem = s.mem := by cases r <;> rfl
@[simp] theorem State.setOperand_script : (s.setOperand r v).script = s.script := by cases r <;> rfl
@[simp] theorem State.setOperand_obs : (s.setOperand r v).obs = s.obs := by cases r <;> rfl
@[simp] theorem State.setOperand_src : (s.setOperand r v).src = if r = .src then v else s.src := by cases r <;> rfl
@[simp] theorem State.setOperand_slen : (s.setOperand r v).slen = if r = .slen then v else s.slen := by
  cases r <;> rfl
@[simp] theorem State.setOperand_dst : (s.setOperand r v).dst = if r = .dst then v else s.dst := by cases r <;> rfl
@[simp] theorem State.setOperand_dlen : (s.setOperand r v).dlen = if r = .dlen then v else s.dlen := by
  cases r <;> rfl
@[simp] theorem State.setOperand_arg : (s.setOperand r v).arg = if r = .arg then v else s.arg := by cases r <;> rfl

end

/-! The register map as reads see it (R33) -/

section
variable (s)

@[simp] theorem readReg_cmd : readReg s Reg.cmd.offset = 0 := rfl
@[simp] theorem readReg_status : readReg s Reg.status.offset = statusWord s := rfl
@[simp] theorem readReg_src : readReg s Reg.src.offset = s.src := rfl
@[simp] theorem readReg_slen : readReg s Reg.slen.offset = s.slen := rfl
@[simp] theorem readReg_dst : readReg s Reg.dst.offset = s.dst := rfl
@[simp] theorem readReg_dlen : readReg s Reg.dlen.offset = s.dlen := rfl
@[simp] theorem readReg_arg : readReg s Reg.arg.offset = s.arg := rfl

@[simp] theorem readReg_ctr (i : Fin 4) :
    readReg s (0x20 + 4 * i.val) = (s.c.map (fun cv => cv[i])).getD 0 := by
  change readReg s (Reg.ctr i).offset = _
  simp [readReg]

@[simp] theorem readReg_blk (i : Fin 16) :
    readReg s (0x40 + 4 * i.val) = (s.b.map (fun b => b[i])).getD 0 := by
  change readReg s (Reg.blk i).offset = _
  simp [readReg]

theorem readReg_reserved {off : Nat} (h : regAt off = none) : readReg s off = 0 := by
  simp [readReg, h]

/-- An operand register reads as the value stored in it. -/
theorem readReg_setOperand {r : Reg} (v : Word) (hr : r.IsOperand) : readReg (s.setOperand r v) r.offset = v := by
  rcases hr with rfl | rfl | rfl | rfl | rfl <;> rfl

theorem toNat_append_eq_add {m n : Nat} (x : BitVec m) (y : BitVec n) :
    (x ++ y).toNat = 2 ^ n * x.toNat + y.toNat := by
  rw [BitVec.toNat_append, ← Nat.shiftLeft_add_eq_or_of_lt y.isLt, Nat.shiftLeft_eq, Nat.mul_comm]

/-- `STATUS` as a sum of its fields, so bits 31:11 are 0 (R31). -/
theorem toNat_statusWord :
    (statusWord s).toNat = s.err.toNat + 2 ^ 8 * s.kv.toNat + 2 ^ 9 * s.cv.toNat + 2 ^ 10 * s.bv.toNat := by
  simp only [statusWord, toNat_append_eq_add, BitVec.toNat_ofBool, BitVec.toNat_ofNat]
  omega

end

/-- No register has an offset that is write-only or reserved, but for `CMD` (R33, R34). -/
theorem regAt_reserved {off : Nat} (h : off = 0x1C ∨ (0x30 ≤ off ∧ off < 0x40) ∨ 0x80 ≤ off) : regAt off = none := by
  rw [Option.eq_none_iff_forall_ne_some]
  rintro r hr
  have := offset_of_regAt hr
  cases r <;> simp only [Reg.offset] at this <;> omega

/-! What one line of the script does -/

/-- The effects a completed line of the host's script can have on the state: the one register file, region or `ERR`
value it writes. -/
inductive LineEffect (s : State) : HostAction → State → Prop
  /-- a command that raised an error, or a word that is no command (R210, R205) -/
  | failed (w : Word) (e : CmdError) : LineEffect s (wrCmd w) (s.setErr e.code)
  | ldkey (k : Key) : LineEffect s (wrCmd 1) ((s.setK (some k)).setErr 0)
  | ldctr (cv : Counter) : LineEffect s (wrCmd 2) ((s.setC (some cv)).setErr 0)
  | ctrnext (cv : Counter) : LineEffect s (wrCmd 3) ((s.setC (some cv)).setErr 0)
  | block (b : WordBlock) : LineEffect s (wrCmd 4) ((s.setB (some b)).setErr 0)
  /-- `KSGEN` or `XOR` that stored its output region -/
  | output (w : Word) (out : List Byte) (hw : w = 5 ∨ w = 6) (hlen : out.length = s.dlen.toNat)
      (hrange : s.dst.toNat + out.length ≤ 2 ^ s.cfg.aw.val) :
      LineEffect s (wrCmd w) ((s.setMem (s.mem.writeBytes s.dst.toNat out)).setErr 0)
  /-- a write to a register other than `CMD` -/
  | register (r : Reg) (v : Word) (hr : r ≠ .cmd) : LineEffect s (wrReg r v) (s.setOperand r v)
  /-- a write to a reserved offset -/
  | reserved (off : Nat) (v : Word) (hoff : regAt off = none) : LineEffect s (.wr off .word v) s
  | registerRead (off : Nat) :
      LineEffect s (.rd off .word) (s.setObs (s.obs ++ [.reg off (readReg s off)]))
  | memoryWrite (a : Nat) (bytes : List Byte) (hrange : a + bytes.length ≤ 2 ^ s.cfg.aw.val) :
      LineEffect s (.mw a bytes) (s.setMem (s.mem.writeBytes a bytes))
  | memoryRead (a n : Nat) : LineEffect s (.mr a n) (s.setObs (s.obs ++ [.mem a (s.mem.readBytes a n)]))
  | reset : LineEffect s .reset (applyReset s)

theorem command_lineEffect {w : Word} (h : command w s = .next t) : LineEffect s (wrCmd w) t := by
  rcases command_cases h with ⟨i, hi, hx⟩ | ⟨_, _, rfl⟩
  · obtain rfl := eq_encode_of_decode hi
    rcases exec_cases hx with ⟨e, rfl⟩ | ⟨rfl, k, rfl⟩ | ⟨rfl, cv, rfl⟩ | ⟨rfl, _, cv, _, _, rfl⟩ | ⟨rfl, b, rfl⟩ |
      ⟨hi, out, hlen, hrange, rfl⟩
    · exact .failed _ e
    · exact .ldkey k
    · exact .ldctr cv
    · exact .ctrnext cv
    · exact .block b
    · exact .output _ out (hi.imp (congrArg encode) (congrArg encode)) hlen hrange
  · exact .failed w .illegalCommand

theorem writeReg_lineEffect {off : Nat} {v : Word} (h : writeReg s off v = .next t) :
    LineEffect s (.wr off .word v) t := by
  cases hoff : regAt off with
  | none =>
    rw [writeReg_reserved s v hoff] at h
    cases h
    exact .reserved off v hoff
  | some r =>
    obtain rfl := offset_of_regAt hoff
    by_cases hr : r = .cmd
    · subst hr
      exact command_lineEffect h
    · rw [writeReg_offset s v hr] at h
      cases h
      exact .register r v hr

theorem perform_lineEffect (h : perform act s = .next t) : LineEffect s act t := by
  rcases perform_cases h with ⟨off, v, rfl, _, hw⟩ | ⟨off, rfl, _, rfl⟩ | ⟨a, bytes, rfl, hrange, _, rfl⟩ |
    ⟨a, n, rfl, _, _, rfl⟩ | ⟨rfl, rfl⟩
  · exact writeReg_lineEffect hw
  · exact .registerRead off
  · exact .memoryWrite a bytes hrange
  · exact .memoryRead a n
  · exact .reset

/-- A step does nothing, with no line left, or has the effect of the first line. -/
theorem step_lineEffect (h : step s = .next t) :
    (s.script = [] ∧ t = s) ∨ ∃ act rest, s.script = act :: rest ∧ LineEffect (s.setScript rest) act t :=
  (step_cases h).imp_right fun ⟨act, rest, hs, hp⟩ => ⟨act, rest, hs, perform_lineEffect hp⟩

/-- A step that changes anything performs a line. -/
theorem lineEffect_of_step_ne (h : step s = .next t) (hne : t ≠ s) :
    ∃ act rest, s.script = act :: rest ∧ LineEffect (s.setScript rest) act t :=
  (step_lineEffect h).resolve_left fun h => hne h.2

/-! The invariant -/

/-- Bytes are stored only inside the address space, and `ERR` takes only the codes 0 to 9. -/
theorem LineEffect.keeps_inv (h : LineEffect s act t) (hs : s.Inv) : t.Inv := by
  obtain ⟨hwf, hbelow, herr⟩ := hs
  cases h with
  | failed w e => exact ⟨hwf, hbelow, e.code_le⟩
  | ldkey | ldctr | ctrnext | block | reset => exact ⟨hwf, hbelow, Nat.zero_le 9⟩
  | output w out hw hlen hrange =>
    exact ⟨Memory.wf_writeBytes _ out hwf, Memory.below_writeBytes out hbelow hrange, Nat.zero_le 9⟩
  | memoryWrite a bytes hrange =>
    exact ⟨Memory.wf_writeBytes a bytes hwf, Memory.below_writeBytes bytes hbelow hrange, herr⟩
  | register r v hr => exact ⟨by simpa using hwf, by simpa using hbelow, by simpa using herr⟩
  | reserved | registerRead | memoryRead => exact ⟨hwf, hbelow, herr⟩

/-- Settles O25: every effect of a line keeps the invariant. -/
theorem stepKeepsInvariant : Obligations.StepKeepsInvariant := by
  intro s t hs h
  rcases step_lineEffect h with ⟨_, rfl⟩ | ⟨act, rest, _, he⟩
  · exact hs
  · exact he.keeps_inv hs

/-- Settles O26. -/
theorem resetHasInvariant : Obligations.ResetHasInvariant := by
  unfold Obligations.ResetHasInvariant
  exact ⟨State.reset_mem_wf, by decide, by decide⟩

/-! Who writes which register -/

/-- Settles O30: of the effects of a line only `LDKEY`'s and reset's touch the key. -/
theorem keyWrittenOnlyByLdkey : Obligations.KeyWrittenOnlyByLdkey := by
  intro s t h hne
  obtain ⟨act, rest, hs, he⟩ := lineEffect_of_step_ne h (ne_of_apply_ne State.k hne)
  cases he with
  | ldkey k => exact ⟨rest, .inl ⟨hs, rfl⟩⟩
  | reset => exact ⟨rest, .inr hs⟩
  | register r v hr => simp at hne
  | _ => exact absurd rfl hne

/-- Settles O31: of the effects of a line only those of the two counter loaders and reset's touch the counter. -/
theorem counterWrittenOnlyByLoaders : Obligations.CounterWrittenOnlyByLoaders := by
  intro s t h hne
  obtain ⟨act, rest, hs, he⟩ := lineEffect_of_step_ne h (ne_of_apply_ne State.c hne)
  cases he with
  | ldctr cv => exact ⟨rest, .inl ⟨hs, rfl⟩⟩
  | ctrnext cv => exact ⟨rest, .inr (.inl ⟨hs, rfl⟩)⟩
  | reset => exact ⟨rest, .inr (.inr hs)⟩
  | register r v hr => simp at hne
  | _ => exact absurd rfl hne

/-- Settles O32: of the effects of a line only `BLOCK`'s and reset's touch the block register. -/
theorem blockRegisterWrittenOnlyByBlock : Obligations.BlockRegisterWrittenOnlyByBlock := by
  intro s t h hne
  obtain ⟨act, rest, hs, he⟩ := lineEffect_of_step_ne h (ne_of_apply_ne State.b hne)
  cases he with
  | block b => exact ⟨rest, .inl ⟨hs, rfl⟩⟩
  | reset => exact ⟨rest, .inr hs⟩
  | register r v hr => simp at hne
  | _ => exact absurd rfl hne

theorem LineEffect.err_changed (h : LineEffect s act t) (hreset : act ≠ .reset) (hne : t.err ≠ s.err) :
    ∃ w, act = wrCmd w := by
  cases h with
  | failed | ldkey | ldctr | ctrnext | block | output => exact ⟨_, rfl⟩
  | register r v hr => simp at hne
  | reset => exact absurd rfl hreset
  | _ => exact absurd rfl hne

/-- Only the host's write of a value to an operand register changes it, reset aside. -/
theorem LineEffect.operands (h : LineEffect s act t) (hreset : act ≠ .reset) :
    SameOperands s t ∨ ∃ r v, act = wrReg r v ∧ t = s.setOperand r v := by
  cases h with
  | register r v hr => exact .inr ⟨r, v, rfl, rfl⟩
  | reset => exact absurd rfl hreset
  | _ => exact .inl ⟨rfl, rfl, rfl, rfl, rfl⟩

/-- Settles O33: a command leaves the operand registers, a register write stores in the one it names. -/
theorem errAndOperandsWrittenOnlyByTheirLines : Obligations.ErrAndOperandsWrittenOnlyByTheirLines := by
  intro s t h hnr
  rcases step_lineEffect h with ⟨_, rfl⟩ | ⟨act, rest, hs, he⟩
  · simp
  · have hreset : act ≠ .reset := fun ha => hnr rest (ha ▸ hs)
    refine ⟨fun hne => ?_, ?_⟩
    · obtain ⟨w, rfl⟩ := he.err_changed hreset hne
      exact ⟨w, rest, hs⟩
    · rcases he.operands hreset with ⟨h1, h2, h3, h4, h5⟩ | ⟨r, v, rfl, rfl⟩
      · simp_all
      · cases r <;> simp [hs]

/-! What a line sees of the key -/

/-- The outcome with the key taken out of its next state. -/
def hideKey (o : Host.Outcome State Fault Refusal) : Host.Outcome State Fault Refusal :=
  match o with
  | .next t    => .next (t.setK none)
  | .fault r   => .fault r
  | .refused r => .refused r

@[simp] theorem hideKey_next (t : State) : hideKey (.next t) = .next (t.setK none) := rfl
@[simp] theorem hideKey_fault (r : Fault) : hideKey (.fault r) = .fault r := rfl
@[simp] theorem hideKey_refused (r : Refusal) : hideKey (.refused r) = .refused r := rfl

/-- Outcomes that agree but for the key complete together, in states that agree but for the key. -/
theorem exists_next_of_hideKey_eq {o o' : Host.Outcome State Fault Refusal} (h : hideKey o = hideKey o')
    (ho : o = .next t) : ∃ t', o' = .next t' ∧ t'.setK none = t.setK none := by
  subst ho
  cases o' with
  | next t' => exact ⟨t', rfl, by simpa [eq_comm] using h⟩
  | fault r => cases h
  | refused r => cases h

section
variable {go go' : Host.Outcome State Fault Refusal} {s' : State}

theorem hideKey_require (p : Bool) (e : CmdError) (hs : s.setK none = s'.setK none)
    (h : hideKey go = hideKey go') : hideKey (require p e s go) = hideKey (require p e s' go') := by
  cases p
  · exact congrArg (raise e) hs
  · exact h

theorem hideKey_withCounter {f f' : Counter → Host.Outcome State Fault Refusal} (hs : s.setK none = s'.setK none)
    (h : ∀ cv, hideKey (f cv) = hideKey (f' cv)) : hideKey (withCounter s f) = hideKey (withCounter s' f') := by
  have hc : s.c = s'.c := by simpa using congrArg State.c hs
  unfold withCounter
  rw [hc]
  cases s'.c with
  | none => exact congrArg (raise .counterNotLoaded) hs
  | some cv => exact h cv

theorem hideKey_requirePlain (cfg : Config) (a n : Nat) (h : hideKey go = hideKey go') :
    hideKey (requirePlain cfg a n go) = hideKey (requirePlain cfg a n go') := by
  unfold requirePlain
  split_ifs
  · rfl
  · rfl
  · exact h

end

section
variable (s) (k k' : Key)

/-- `LDKEY`, `LDCTR` and `CTRNEXT` do not look at the key (R82). -/
theorem hideKey_exec_setK {i : Instr} (hi : i = .ldkey ∨ i = .ldctr ∨ i = .ctrnext) :
    hideKey (exec i (s.setK (some k))) = hideKey (exec i (s.setK (some k'))) := by
  rcases hi with rfl | rfl | rfl
  · exact hideKey_require _ _ rfl <| hideKey_require _ _ rfl <| hideKey_require _ _ rfl <|
      hideKey_requirePlain _ _ _ rfl
  · exact hideKey_require _ _ rfl <| hideKey_require _ _ rfl <| hideKey_require _ _ rfl <|
      hideKey_requirePlain _ _ _ rfl
  · refine hideKey_withCounter rfl fun cv => ?_
    cases nextCounter cv <;> rfl

theorem hideKey_command_setK {w : Word} (hw : w ≠ 4 ∧ w ≠ 5 ∧ w ≠ 6) :
    hideKey (command w (s.setK (some k))) = hideKey (command w (s.setK (some k'))) := by
  cases hd : decode w with
  | error e =>
    rw [command_error hd, command_error hd]
    rfl
  | ok i =>
    rw [command_ok hd, command_ok hd]
    apply hideKey_exec_setK
    obtain rfl := eq_encode_of_decode hd
    cases i <;> simp_all [encode]

theorem setOperand_setK (r : Reg) (v : Word) (k : Option Key) :
    (s.setK k).setOperand r v = (s.setOperand r v).setK k := by
  cases r <;> rfl

/-- A register read shows of the key only whether one is loaded (R22, R31). -/
theorem readReg_setK (off : Nat) : readReg (s.setK (some k)) off = readReg (s.setK (some k')) off := by
  unfold readReg
  split <;> rfl

theorem hideKey_writeReg_setK {off : Nat} {v : Word} (hw : off = Reg.cmd.offset → v ≠ 4 ∧ v ≠ 5 ∧ v ≠ 6) :
    hideKey (writeReg (s.setK (some k)) off v) = hideKey (writeReg (s.setK (some k')) off v) := by
  cases hoff : regAt off with
  | none =>
    rw [writeReg_reserved _ v hoff, writeReg_reserved _ v hoff]
    rfl
  | some r =>
    obtain rfl := offset_of_regAt hoff
    by_cases hr : r = .cmd
    · subst hr
      exact hideKey_command_setK s k k' (hw rfl)
    · rw [writeReg_offset _ v hr, writeReg_offset _ v hr, setOperand_setK, setOperand_setK]
      rfl

theorem hideKey_hostMem_setK {a n : Nat} {go go' : Host.Outcome State Fault Refusal} (h : hideKey go = hideKey go') :
    hideKey (hostMem (s.setK (some k)) a n go) = hideKey (hostMem (s.setK (some k')) a n go') := by
  by_cases ha : a + n ≤ 2 ^ s.cfg.aw.val
  · simpa [hostMem, ha] using hideKey_requirePlain _ _ _ h
  · simp [hostMem, ha]

/-- No line but the three cipher commands shows anything of the key's value. -/
theorem hideKey_perform_setK {act : HostAction} (hact : act ≠ wrCmd 4 ∧ act ≠ wrCmd 5 ∧ act ≠ wrCmd 6) :
    hideKey (perform act (s.setK (some k))) = hideKey (perform act (s.setK (some k'))) := by
  cases act with
  | wr off size v =>
    simp only [perform]
    split_ifs with hd
    · refine hideKey_writeReg_setK s k k' fun hoff => ?_
      have hsize : size = .word := by simp_all [regAccessDefined]
      simpa [wrCmd, wrReg, hoff, hsize] using hact
    · rfl
  | rd off size =>
    simp only [perform]
    split_ifs
    · rw [readReg_setK s k k']
      rfl
    · rfl
  | mw a bytes => exact hideKey_hostMem_setK s k k' rfl
  | mr a n => exact hideKey_hostMem_setK s k k' rfl
  | reset => rfl

end

/-- Settles O35: the two steps are equal once the key is hidden, as no check or result of the line looks at it. -/
theorem keyValueReachesOnlyCipherCommands : Obligations.KeyValueReachesOnlyCipherCommands := by
  intro s t k k' h hact
  refine exists_next_of_hideKey_eq ?_ h
  cases hs : s.script with
  | nil =>
    rw [step_nil (s := s.setK (some k)) hs, step_nil (s := s.setK (some k')) hs]
    rfl
  | cons act rest =>
    rw [step_cons (s := s.setK (some k)) hs, step_cons (s := s.setK (some k')) hs]
    refine hideKey_perform_setK (s.setScript rest) k k' ?_
    have := hact rest
    simpa [hs] using this

/-! The register interface -/

theorem step_registerRead {off : Nat} {rest : List HostAction} (hoff : off % 4 = 0)
    (hs : s.script = .rd off .word :: rest) :
    step s = .next ((s.setScript rest).setObs (s.obs ++ [.reg off (readReg s off)])) := by
  rw [step_cons hs]
  have hd : regAccessDefined off .word = true := by simp [regAccessDefined, hoff]
  exact if_pos hd

theorem step_registerWrite {off : Nat} {v : Word} {rest : List HostAction} (hoff : off % 4 = 0)
    (hs : s.script = .wr off .word v :: rest) : step s = writeReg (s.setScript rest) off v := by
  simp [step_cons hs, perform, regAccessDefined, hoff]

theorem Reg.offset_mod_four (r : Reg) : r.offset % 4 = 0 := by
  cases r <;> simp only [Reg.offset] <;> omega

/-- Writes are ignored at `STATUS` and from 0x1C up: `C`, `B` and the reserved offsets (R34). -/
theorem writeReg_readOnly (s : State) {off : Nat} (v : Word) (h : off = 0x04 ∨ 0x1C ≤ off) :
    writeReg s off v = .next s := by
  cases hoff : regAt off with
  | none => exact writeReg_reserved s v hoff
  | some r =>
    obtain rfl := offset_of_regAt hoff
    cases r with
    | status | ctr | blk => exact writeReg_offset s v (by simp)
    | _ => simp [Reg.offset] at h

/-- Settles O37. -/
theorem statusFields : Obligations.StatusFields := by
  intro s
  refine ⟨toNat_statusWord s, fun rest hs => step_registerRead rfl hs, fun v rest hs => ?_⟩
  rw [step_registerWrite rfl hs]
  exact writeReg_readOnly _ v (.inl rfl)

/-- Settles O39. -/
theorem reservedOffsetsInert : Obligations.ReservedOffsetsInert := by
  intro s off rest hoff
  refine ⟨fun v hs h => ?_, fun h => ?_, step_registerRead hoff⟩
  · rw [step_registerWrite hoff hs]
    exact writeReg_readOnly _ v h
  · rcases h with rfl | h
    · exact readReg_cmd s
    · exact readReg_reserved s (regAt_reserved h)

/-- Settles O38. -/
theorem registerMapReads : Obligations.RegisterMapReads := by
  intro s
  refine ⟨readReg_cmd s, readReg_status s, readReg_src s, readReg_slen s, readReg_dst s, readReg_dlen s,
    readReg_arg s, fun i => ⟨fun h => ?_, fun cv h => ?_⟩, fun i => ⟨fun h => ?_, fun b h => ?_⟩⟩
  all_goals simp [h]

/-- Settles O40: such an access is not defined, so its line is refused before any register is looked at. -/
theorem undefinedRegisterAccessRefused : Obligations.UndefinedRegisterAccessRefused := by
  intro s off size rest h
  have hd : regAccessDefined off size = false := by
    rw [← Bool.not_eq_true]
    simp only [regAccessDefined, Bool.and_eq_true, beq_iff_eq]
    tauto
  constructor
  · intro v hs
    simp [step_cons hs, perform, hd]
  · intro hs
    simp [step_cons hs, perform, hd]

/-- Settles O41: the write stores in the register it names, the read observes that register. -/
theorem operandRegistersHoldWhatIsWritten : Obligations.OperandRegistersHoldWhatIsWritten := by
  intro s r v rest hr hs
  have hcmd : r ≠ .cmd := by rintro rfl; simp at hr
  have hwrite : step s = .next ((s.setScript (rdReg r :: rest)).setOperand r v) := by
    rw [step_registerWrite r.offset_mod_four hs, writeReg_offset _ v hcmd]
  have hread := step_registerRead (s := (s.setScript (rdReg r :: rest)).setOperand r v) (off := r.offset)
    (rest := rest) r.offset_mod_four (State.setOperand_script ..)
  refine ⟨_, _, hwrite, hread, ?_⟩
  rw [readReg_setOperand _ v hr]
  simp +contextual

/-! Reset -/

/-- With nothing loaded and `ERR` 0, `STATUS` and the `C` and `B` offsets read 0. -/
theorem status_and_words_zero (hk : s.k = none) (hc : s.c = none) (hb : s.b = none) (he : s.err = 0) :
    statusWord s = 0 ∧ (∀ i : Fin 4, readReg s (0x20 + 4 * i.val) = 0) ∧
      (∀ i : Fin 16, readReg s (0x40 + 4 * i.val) = 0) := by
  refine ⟨?_, fun i => ?_, fun i => ?_⟩
  · simp [statusWord, State.kv, State.cv, State.bv, hk, hc, hb, he]
  · simp [hc]
  · simp [hb]

/-- Settles O27. -/
theorem resetValues : Obligations.ResetValues :=
  ⟨rfl, rfl, rfl, rfl, rfl, rfl, rfl, rfl, rfl, status_and_words_zero rfl rfl rfl rfl⟩

/-- Settles O28: the reset line is `applyReset`. -/
theorem resetEventKeepsMemory : Obligations.ResetEventKeepsMemory := by
  intro s rest hs
  obtain ⟨hstatus, hctr, hblk⟩ := status_and_words_zero (s := applyReset (s.setScript rest)) rfl rfl rfl rfl
  exact ⟨_, step_cons hs, rfl, rfl, rfl, rfl, rfl, rfl, rfl, rfl, rfl, rfl, rfl, rfl, hstatus, hctr, hblk,
    rfl, rfl, rfl, rfl⟩

/-! Command lines -/

/-- Settles O4. -/
theorem stepRunsDecodedCommand : Obligations.StepRunsDecodedCommand := by
  intro s w i rest hs hd _
  rw [step_command hs, command_ok hd]

theorem inRange_eq_false {cfg : Config} {a : Word} (n : Nat) (h : 2 ^ cfg.aw.val ≤ a.toNat) :
    inRange cfg a n = false := by
  rw [← Bool.not_eq_true, inRange_iff]
  omega

/-- Settles O12: the range check is the first that fails. -/
theorem highAddressBitsRaiseAddressRange : Obligations.HighAddressBitsRaiseAddressRange := by
  refine ⟨fun s hlen ha => ?_, fun s hlen ha => ?_, fun s k cv hk hc hroom ha => ?_,
    fun s k cv hk hc hlen hroom ha => ?_⟩
  · simp [exec, execLdkey, hlen, inRange_eq_false _ ha, CmdError.code]
  · simp [exec, execLdctr, hlen, inRange_eq_false _ ha, CmdError.code]
  · simp [exec, execKsgen, withKey_some hk, withCounter_some hc, (counterRoom_iff _ _).mpr hroom,
      inRange_eq_false _ ha, CmdError.code]
  · have hrange : (inRange s.cfg s.src s.slen.toNat && inRange s.cfg s.dst s.slen.toNat) = false := by
      rcases ha with ha | ha <;> simp [inRange_eq_false _ ha]
    simp only [exec, execXor, withKey_some hk, withCounter_some hc, (counterRoom_iff _ _).mpr hroom, hrange]
    simp [hlen, CmdError.code]

end Sys2Proof.Machine
end

section
/-! The proofs of the statements on memory (20_memory.md).

A command stores in its output region alone (`exec_readByte_outside`), and what it does depends on memory through its
input region alone (`exec_storesAlike`): the rules on who writes which byte come from the first, the independence of
two instances from both. -/

namespace Sys2Proof.Machine

/-! Regions -/

/-- The address lies in the span. -/
abbrev Span.Covers (sp : Span) (x : Nat) : Prop := sp.base ≤ x ∧ x < sp.base + sp.size

theorem any_meets_iff (spans : List Span) (a n : Nat) :
    spans.any (fun sp => Span.meets sp a n) = true ↔ ∃ x, a ≤ x ∧ x < a + n ∧ ∃ sp ∈ spans, Span.Covers sp x := by
  simp only [List.any_eq_true, Span.meets_iff]
  constructor
  · rintro ⟨sp, hsp, x, hbase, hend, ha, hn⟩
    exact ⟨x, ha, hn, sp, hsp, hbase, hend⟩
  · rintro ⟨x, ha, hn, sp, hsp, hbase, hend⟩
    exact ⟨sp, hsp, x, hbase, hend, ha, hn⟩

/-- Settles O43: each predicate is a statement about the single bytes of the region. -/
theorem memOkMonotone : Obligations.MemOkMonotone := by
  intro cfg kind a n a' n'
  refine ⟨(memOK_iff ..).mpr fun x _ _ => by omega, fun h hstart hend => ?_, memOK_iff cfg .read a n,
    memOK_iff cfg .write a n, any_meets_iff cfg.regWindows a n, any_meets_iff cfg.devices a n⟩
  rw [memOK_iff] at h ⊢
  exact fun x hx hx' => h x (by omega) (by omega)

/-- Settles O44: a 32-bit start address is below `2^32`, so only the end of the region counts. -/
theorem regionRangeExact : Obligations.RegionRangeExact := by
  intro cfg a n haw
  have ha := a.isLt
  have hval : cfg.aw.val = 32 := congrArg Fin.val haw
  simp only [inRange_iff, hval]
  omega

/-! Byte order -/

theorem toNat_le32 (a b c d : Byte) :
    (le32 [a, b, c, d] 0).toNat = a.toNat + 2 ^ 8 * b.toNat + 2 ^ 16 * c.toNat + 2 ^ 24 * d.toNat := by
  have ha := a.isLt
  have hb := b.isLt
  have hc := c.isLt
  have hd := d.isLt
  simp only [le32, List.getD_cons_zero, List.getD_cons_succ, Nat.zero_add, BitVec.toNat_ofNat]
  omega

theorem map_toNat_bytes32 (w : Word) : (bytes32 w).map BitVec.toNat =
    [w.toNat % 2 ^ 8, w.toNat / 2 ^ 8 % 2 ^ 8, w.toNat / 2 ^ 16 % 2 ^ 8, w.toNat / 2 ^ 24 % 2 ^ 8] := by
  simp [bytes32, BitVec.extractLsb'_toNat, Nat.shiftRight_eq_div_pow]

theorem le32_bytes32 (w : Word) : le32 (bytes32 w) 0 = w := by
  apply BitVec.eq_of_toNat_eq
  have hw := w.isLt
  rw [bytes32, toNat_le32]
  simp only [BitVec.extractLsb'_toNat, Nat.shiftRight_eq_div_pow]
  omega

theorem bytes32_le32 {s : List Byte} (hs : s.length = 4) : bytes32 (le32 s 0) = s := by
  obtain ⟨a, b, c, d, rfl⟩ := List.length_eq_four.mp hs
  have ha := a.isLt
  have hb := b.isLt
  have hc := c.isLt
  have hd := d.isLt
  apply List.map_injective_iff.mpr (fun _ _ => BitVec.eq_of_toNat_eq)
  rw [map_toNat_bytes32, toNat_le32]
  simp only [List.map_cons, List.map_nil, List.cons.injEq, and_true]
  omega

/-- Settles O45: the numbers that `le32` and `bytes32` give decide both inverses. -/
theorem littleEndianInverse : Obligations.LittleEndianInverse :=
  ⟨toNat_le32, map_toNat_bytes32, le32_bytes32, fun _ => bytes32_le32⟩

/-! What a command writes -/

section
variable {s t : State} {i : Instr}

/-- A command changes no byte outside its output region, in success or error (R60, R62). -/
theorem exec_readByte_outside (h : exec i s = .next t) {x : Nat} (hx : ¬Span.Covers (writeSpan i s) x) :
    t.mem.readByte x = s.mem.readByte x := by
  rcases exec_cases h with ⟨e, rfl⟩ | ⟨_, k, rfl⟩ | ⟨_, cv, rfl⟩ | ⟨_, _, cv, _, _, rfl⟩ | ⟨_, b, rfl⟩ |
    ⟨hi, out, hlen, _, rfl⟩
  iterate 5 · rfl
  · apply Memory.readByte_writeBytes_out
    rcases hi with rfl | rfl <;> simp only [Span.Covers, writeSpan] at hx <;> omega

/-- Settles O21: an error writes `ERR` alone, success the memory as well, and that in the output region alone. -/
theorem memoryCommandsFrame : Obligations.MemoryCommandsFrame := by
  intro i s t hi h
  have hmem : ∀ x, (x < s.dst.toNat ∨ s.dst.toNat + s.dlen.toNat ≤ x) → t.mem.readByte x = s.mem.readByte x := by
    refine fun x hx => exec_readByte_outside h ?_
    rcases hi with rfl | rfl <;> simp only [Span.Covers, writeSpan] <;> omega
  rcases exec_cases h with ⟨e, rfl⟩ | ⟨rfl, _⟩ | ⟨rfl, _⟩ | ⟨rfl, _⟩ | ⟨rfl, _⟩ | ⟨_, out, _, _, rfl⟩
  · exact ⟨⟨rfl, rfl, rfl, rfl, rfl⟩, ⟨rfl, rfl, rfl⟩, rfl, rfl, rfl, hmem⟩
  iterate 4 · simp at hi
  · exact ⟨⟨rfl, rfl, rfl, rfl, rfl⟩, ⟨rfl, rfl, rfl⟩, rfl, rfl, rfl, hmem⟩

/-- A store changes only the bytes of its own region (R55). -/
theorem Memory.covers_of_readByte_writeBytes_ne {m : Memory} {a x : Nat} {bytes : List Byte}
    (h : (m.writeBytes a bytes).readByte x ≠ m.readByte x) : Span.Covers ⟨a, bytes.length⟩ x := by
  by_contra hx
  exact h (Memory.readByte_writeBytes_out m a x bytes (by simp only [Span.Covers] at hx; omega))

/-- Settles O34: of the effects of a line only the host's store and a command's output touch memory. -/
theorem memoryWrittenOnlyWhereDirected : Obligations.MemoryWrittenOnlyWhereDirected := by
  intro s t x h hne
  obtain ⟨act, rest, hs, he⟩ := lineEffect_of_step_ne h (ne_of_apply_ne (fun s => s.mem.readByte x) hne)
  cases he with
  | output w out hw hlen _ =>
    obtain ⟨hstart, hend⟩ := Memory.covers_of_readByte_writeBytes_ne hne
    refine .inr ⟨rest, hw.imp (fun (hw : w = 5) => hw ▸ hs) (fun (hw : w = 6) => hw ▸ hs), hstart, ?_⟩
    simpa [hlen] using hend
  | memoryWrite a bytes _ =>
    exact .inl ⟨a, bytes, rest, hs, Memory.covers_of_readByte_writeBytes_ne hne⟩
  | register r v hr => simp at hne
  | _ => exact absurd rfl hne

end

/-! Commands from two memories -/

theorem Memory.readBytes_congr {m m' : Memory} {a n : Nat}
    (h : ∀ x, a ≤ x → x < a + n → m'.readByte x = m.readByte x) : m'.readBytes a n = m.readBytes a n := by
  apply List.map_congr_left
  intro i hi
  have hin := List.mem_range.mp hi
  exact h _ (by omega) (by omega)

/-- Stores to regions without a common byte may be exchanged. -/
theorem Memory.writeBytes_comm {m : Memory} (hm : m.wf) {a b : Nat} {u v : List Byte}
    (h : ∀ x, ¬((a ≤ x ∧ x < a + u.length) ∧ (b ≤ x ∧ x < b + v.length))) :
    (m.writeBytes a u).writeBytes b v = (m.writeBytes b v).writeBytes a u := by
  apply Memory.ext_readByte (Memory.wf_writeBytes _ _ (Memory.wf_writeBytes _ _ hm))
    (Memory.wf_writeBytes _ _ (Memory.wf_writeBytes _ _ hm))
  intro x
  by_cases hu : a ≤ x ∧ x < a + u.length
  · have hv : ¬(b ≤ x ∧ x < b + v.length) := fun hv => h x ⟨hu, hv⟩
    simp [Memory.readByte_writeBytes, hu, hv]
  · simp [Memory.readByte_writeBytes, hu]

/-- Outcomes of one command from two memories: if the one from `m` completes, so does the one from `m'`, with the same
registers, and both store the same bytes at the start of the span. -/
def StoresAlike (sp : Span) (m m' : Memory) (o o' : Host.Outcome State Fault Refusal) : Prop :=
  ∀ t, o = .next t → ∃ out : List Byte, out.length ≤ sp.size ∧ t.mem = m.writeBytes sp.base out ∧
    o' = .next (t.setMem (m'.writeBytes sp.base out))

section
variable {sp : Span} {m m' : Memory} {s : State} {go go' : Host.Outcome State Fault Refusal}

theorem storesAlike_nothing : StoresAlike sp m m' (.next (s.setMem m)) (.next (s.setMem m')) := by
  rintro t ⟨⟩
  exact ⟨[], Nat.zero_le _, rfl, rfl⟩

theorem storesAlike_store {out : List Byte} (h : out.length ≤ sp.size) :
    StoresAlike sp m m' (.next (s.setMem (m.writeBytes sp.base out)))
      (.next (s.setMem (m'.writeBytes sp.base out))) := by
  rintro t ⟨⟩
  exact ⟨out, h, rfl, rfl⟩

theorem storesAlike_require {p : Bool} {e : CmdError} (h : p = true → StoresAlike sp m m' go go') :
    StoresAlike sp m m' (require p e (s.setMem m) go) (require p e (s.setMem m') go') := by
  cases p
  · exact storesAlike_nothing (s := s.setErr e.code)
  · exact h rfl

theorem storesAlike_withKey {f f' : Key → Host.Outcome State Fault Refusal}
    (h : ∀ k, StoresAlike sp m m' (f k) (f' k)) :
    StoresAlike sp m m' (withKey (s.setMem m) f) (withKey (s.setMem m') f') := by
  unfold withKey
  simp only [State.setMem_k]
  cases s.k with
  | none => exact storesAlike_nothing (s := s.setErr CmdError.keyNotLoaded.code)
  | some k => exact h k

theorem storesAlike_withCounter {f f' : Counter → Host.Outcome State Fault Refusal}
    (h : ∀ cv, StoresAlike sp m m' (f cv) (f' cv)) :
    StoresAlike sp m m' (withCounter (s.setMem m) f) (withCounter (s.setMem m') f') := by
  unfold withCounter
  simp only [State.setMem_c]
  cases s.c with
  | none => exact storesAlike_nothing (s := s.setErr CmdError.counterNotLoaded.code)
  | some cv => exact h cv

theorem storesAlike_requirePlain {cfg : Config} {a n : Nat} (h : StoresAlike sp m m' go go') :
    StoresAlike sp m m' (requirePlain cfg a n go) (requirePlain cfg a n go') := by
  unfold requirePlain
  split_ifs
  · rintro t ⟨⟩
  · rintro t ⟨⟩
  · exact h

/-- What a command does depends on memory through the bytes of its input region alone (R60). -/
theorem exec_storesAlike (i : Instr) (s : State)
    (h : ∀ x, Span.Covers (readSpan i s) x → m'.readByte x = m.readByte x) :
    StoresAlike (writeSpan i s) m m' (exec i (s.setMem m)) (exec i (s.setMem m')) := by
  have hread : m'.readBytes (readSpan i s).base (readSpan i s).size =
      m.readBytes (readSpan i s).base (readSpan i s).size := Memory.readBytes_congr fun x hx hx' => h x ⟨hx, hx'⟩
  cases i with
  | ldkey =>
    refine storesAlike_require fun _ => storesAlike_require fun _ => storesAlike_require fun _ =>
      storesAlike_requirePlain ?_
    simp only [readSpan] at hread
    simp only [State.setMem_mem, State.setMem_src, hread]
    exact storesAlike_nothing (s := (s.setK _).setErr 0)
  | ldctr =>
    refine storesAlike_require fun _ => storesAlike_require fun _ => storesAlike_require fun _ =>
      storesAlike_requirePlain ?_
    simp only [readSpan] at hread
    simp only [State.setMem_mem, State.setMem_src, hread]
    exact storesAlike_nothing (s := (s.setC _).setErr 0)
  | ctrnext =>
    refine storesAlike_withCounter fun cv => ?_
    cases nextCounter cv with
    | none => exact storesAlike_nothing (s := s.setErr CmdError.counterOverflow.code)
    | some next => exact storesAlike_nothing (s := (s.setC (some next)).setErr 0)
  | block =>
    exact storesAlike_withKey fun k => storesAlike_withCounter fun cv =>
      storesAlike_nothing (s := (s.setB (some (blockWords k cv))).setErr 0)
  | ksgen =>
    refine storesAlike_withKey fun k => storesAlike_withCounter fun cv => storesAlike_require fun _ =>
      storesAlike_require fun _ => storesAlike_require fun _ => storesAlike_requirePlain ?_
    exact storesAlike_store (s := s.setErr 0) (length_keystream ..).le
  | xor =>
    refine storesAlike_withKey fun k => storesAlike_withCounter fun cv => storesAlike_require fun hlen =>
      storesAlike_require fun _ => storesAlike_require fun _ => storesAlike_require fun _ =>
      storesAlike_requirePlain <| storesAlike_requirePlain ?_
    have hlen : s.slen = s.dlen := eq_of_beq hlen
    simp only [readSpan] at hread
    simp only [State.setMem_mem, State.setMem_src, State.setMem_slen, hread]
    exact storesAlike_store (s := s.setErr 0) (by simp [writeSpan, hlen])

end

/-- Settles O60: each command finds its input region as it was in `m`, so it stores the same bytes as alone, and the
two stores lie apart. -/
theorem disjointInstancesCommute : Obligations.DisjointInstancesCommute := by
  intro i j s s' t t' m hm hi hj hww hwr hrw
  obtain ⟨out, hlen, hmem, hi'⟩ := exec_storesAlike i s (m := m) (m' := t'.mem)
    (fun x hx => exec_readByte_outside hj fun hx' => hrw x ⟨hx, hx'⟩) t hi
  obtain ⟨out', hlen', hmem', hj'⟩ := exec_storesAlike j s' (m := m) (m' := t.mem)
    (fun x hx => exec_readByte_outside hi fun hx' => hwr x ⟨hx', hx⟩) t' hj
  refine ⟨_, hj', hi'.trans ?_⟩
  rw [hmem, hmem', Memory.writeBytes_comm hm fun x hx => hww x ?_]
  omega

end Sys2Proof.Machine
end

section
/-! The proofs of the statements on the encoding (30_encoding.md).

Decoding is the inverse of `encode` (`decode_eq_ok_iff`). What a command does depends on the registers it reads alone
(`exec_eq_mapNext`): each clause of R82 is one use of that rule. -/

namespace Sys2Proof.Machine

variable {s s' t : State}

/-! The command map -/

/-- A command's own word decodes to it (R84). -/
@[simp] theorem decode_encode (i : Instr) : decode (encode i) = .ok i := by
  cases i <;> rfl

theorem decode_eq_ok_iff {w : Word} {i : Instr} : decode w = .ok i ↔ w = encode i :=
  ⟨eq_encode_of_decode, fun h => h ▸ decode_encode i⟩

/-- Settles O2: every command is well-formed. -/
theorem decodeAndEncodeAgree : Obligations.DecodeAndEncodeAgree :=
  fun _ _ _ => decode_eq_ok_iff

theorem encode_mem (i : Instr) : encode i ∈ ([1, 2, 3, 4, 5, 6] : List Word) := by
  cases i <;> decide

/-- Settles O3: such a word is no command's own, so it does not decode and the command step raises the error. -/
theorem illegalWordRaisesOnlyErr : Obligations.IllegalWordRaisesOnlyErr := by
  intro s w rest hs hw
  rw [step_command hs]
  cases hd : decode w with
  | error e => exact command_error hd
  | ok i => exact absurd (eq_encode_of_decode hd ▸ encode_mem i) hw

/-- Settles O1. -/
theorem commandWordsDecode : Obligations.CommandWordsDecode :=
  ⟨decode_encode .ldkey, decode_encode .ldctr, decode_encode .ctrnext, decode_encode .block, decode_encode .ksgen,
    decode_encode .xor, rfl, rfl, rfl, rfl, rfl⟩

/-! What the four register commands leave unchanged -/

/-- `Next` moves the block counter alone (R134). -/
theorem nextCounter_keeps_nonce {cv next : Counter} (h : nextCounter cv = some next) :
    next[1] = cv[1] ∧ next[2] = cv[2] ∧ next[3] = cv[3] := by
  unfold nextCounter at h
  split at h
  · cases h
  · cases h
    simp

/-- Settles O20: an error writes `ERR` alone, success the command's own register as well. -/
theorem registerCommandsFrame : Obligations.RegisterCommandsFrame := by
  intro i s t hi h
  rcases exec_cases h with ⟨e, rfl⟩ | ⟨rfl, k, rfl⟩ | ⟨rfl, cv, rfl⟩ | ⟨rfl, cv, next, hc, hnext, rfl⟩ | ⟨rfl, b, rfl⟩ |
    ⟨hi', _⟩
  · simp +contextual [SameOperands, SameHostSide]
  · simp [SameOperands, SameHostSide]
  · simp [SameOperands, SameHostSide]
  · have hnonce := nextCounter_keeps_nonce hnext
    simpa [SameOperands, SameHostSide, hc] using hnonce
  · simp [SameOperands, SameHostSide]
  · rcases hi' with rfl | rfl <;> simp at hi

/-! The registers a command reads (R82) -/

/-- The outcome with its next state, if there is one, carried along `g`. -/
def mapNext (g : State → State) (o : Host.Outcome State Fault Refusal) : Host.Outcome State Fault Refusal :=
  match o with
  | .next t    => .next (g t)
  | .fault r   => .fault r
  | .refused r => .refused r

@[simp] theorem mapNext_next (g : State → State) (t : State) : mapNext g (.next t) = .next (g t) := rfl

/-- The state after a failed command is carried to the one after the same failure in the other state. -/
abbrev CarriesFailure (g : State → State) (s s' : State) : Prop :=
  ∀ e : CmdError, g (s.setErr e.code) = s'.setErr e.code

section
variable {g : State → State} {go : Host.Outcome State Fault Refusal}

theorem mapNext_require (hg : CarriesFailure g s s') (p : Bool) (e : CmdError) :
    mapNext g (require p e s go) = require p e s' (mapNext g go) := by
  cases p
  · simp [hg e]
  · rfl

theorem mapNext_withKey (hg : CarriesFailure g s s') (hk : s'.k = s.k)
    (f : Key → Host.Outcome State Fault Refusal) :
    mapNext g (withKey s f) = withKey s' fun k => mapNext g (f k) := by
  cases h : s.k with
  | none => rw [withKey_none h, withKey_none (hk.trans h), mapNext_next, hg]
  | some k => rw [withKey_some h, withKey_some (hk.trans h)]

theorem mapNext_withCounter (hg : CarriesFailure g s s') (hc : s'.c = s.c)
    (f : Counter → Host.Outcome State Fault Refusal) :
    mapNext g (withCounter s f) = withCounter s' fun cv => mapNext g (f cv) := by
  cases h : s.c with
  | none => rw [withCounter_none h, withCounter_none (hc.trans h), mapNext_next, hg]
  | some cv => rw [withCounter_some h, withCounter_some (hc.trans h)]

theorem mapNext_requirePlain (g : State → State) (cfg : Config) (a n : Nat) :
    mapNext g (requirePlain cfg a n go) = requirePlain cfg a n (mapNext g go) := by
  unfold requirePlain
  split_ifs <;> rfl

end

/-- The two states agree on what the command reads (R82): its operand registers, key and counter, and where it has a
region the platform and memory. -/
def SameReads (i : Instr) (s s' : State) : Prop :=
  match i with
  | .ldkey   => s'.cfg = s.cfg ∧ s'.mem = s.mem ∧ s'.src = s.src ∧ s'.slen = s.slen
  | .ldctr   => s'.cfg = s.cfg ∧ s'.mem = s.mem ∧ s'.src = s.src ∧ s'.slen = s.slen ∧ s'.arg = s.arg
  | .ctrnext => s'.c = s.c
  | .block   => s'.k = s.k ∧ s'.c = s.c
  | .ksgen   => s'.cfg = s.cfg ∧ s'.mem = s.mem ∧ s'.k = s.k ∧ s'.c = s.c ∧ s'.dst = s.dst ∧ s'.dlen = s.dlen
  | .xor     => s'.cfg = s.cfg ∧ s'.mem = s.mem ∧ s'.k = s.k ∧ s'.c = s.c ∧ s'.src = s.src ∧ s'.slen = s.slen ∧
      s'.dst = s.dst ∧ s'.dlen = s.dlen

/-- The state after the command's success is carried to the one after the same effect in the other state. -/
def CarriesEffect (i : Instr) (g : State → State) (s s' : State) : Prop :=
  match i with
  | .ldkey           => ∀ k, g ((s.setK (some k)).setErr 0) = (s'.setK (some k)).setErr 0
  | .ldctr | .ctrnext => ∀ cv, g ((s.setC (some cv)).setErr 0) = (s'.setC (some cv)).setErr 0
  | .block           => ∀ b, g ((s.setB (some b)).setErr 0) = (s'.setB (some b)).setErr 0
  | .ksgen | .xor    => ∀ m, g ((s.setMem m).setErr 0) = (s'.setMem m).setErr 0

/-- A command does the same in two states that agree on what it reads. -/
theorem exec_eq_mapNext {i : Instr} {g : State → State} (hreads : SameReads i s s') (hfail : CarriesFailure g s s')
    (heffect : CarriesEffect i g s s') : exec i s' = mapNext g (exec i s) := by
  cases i with
  | ldkey =>
    obtain ⟨hcfg, hmem, hsrc, hslen⟩ := hreads
    simp only [exec, execLdkey, mapNext_require hfail, mapNext_requirePlain, ok_eq, mapNext_next, heffect _, hcfg, hmem,
      hsrc, hslen]
  | ldctr =>
    obtain ⟨hcfg, hmem, hsrc, hslen, harg⟩ := hreads
    simp only [exec, execLdctr, mapNext_require hfail, mapNext_requirePlain, ok_eq, mapNext_next, heffect _, hcfg, hmem,
      hsrc, hslen, harg]
  | ctrnext =>
    simp only [exec, execCtrnext, mapNext_withCounter hfail hreads]
    congr 1
    funext cv
    cases nextCounter cv with
    | none => exact congrArg Host.Outcome.next (hfail .counterOverflow).symm
    | some next => exact congrArg Host.Outcome.next (heffect next).symm
  | block =>
    obtain ⟨hk, hc⟩ := hreads
    simp only [exec, execBlock, mapNext_withKey hfail hk, mapNext_withCounter hfail hc, ok_eq, mapNext_next, heffect _]
  | ksgen =>
    obtain ⟨hcfg, hmem, hk, hc, hdst, hdlen⟩ := hreads
    simp only [exec, execKsgen, mapNext_withKey hfail hk, mapNext_withCounter hfail hc, mapNext_require hfail,
      mapNext_requirePlain, ok_eq, mapNext_next, heffect _, hcfg, hmem, hdst, hdlen]
  | xor =>
    obtain ⟨hcfg, hmem, hk, hc, hsrc, hslen, hdst, hdlen⟩ := hreads
    simp only [exec, execXor, mapNext_withKey hfail hk, mapNext_withCounter hfail hc, mapNext_require hfail,
      mapNext_requirePlain, ok_eq, mapNext_next, heffect _, hcfg, hmem, hsrc, hslen, hdst, hdlen]

theorem exec_next_of_sameReads {i : Instr} {g : State → State} (h : exec i s = .next t) (hreads : SameReads i s s')
    (hfail : CarriesFailure g s s') (heffect : CarriesEffect i g s s') : exec i s' = .next (g t) := by
  rw [exec_eq_mapNext hreads hfail heffect, h, mapNext_next]

/-- The change a failed command leaves in place, in a register that success overwrites. -/
def onFailure (f : State → State) (t : State) : State := if t.err = 0 then t else f t

theorem carriesFailure_onFailure {f : State → State} (hf : CarriesFailure f s s') :
    CarriesFailure (onFailure f) s s' :=
  fun e => (if_neg e.code_ne_zero).trans (hf e)

/-- Settles O24: in each clause the two states agree on what the command reads, and setting the other registers
commutes with what it writes. -/
theorem unreadRegistersDoNotMatter : Obligations.UnreadRegistersDoNotMatter := by
  intro s t a n d l w e k cv b
  refine ⟨fun i h => ?_, fun i hi h => ?_, fun h => ?_, fun h => ⟨?_, ?_⟩, fun h => ⟨?_, ?_⟩, fun h => ?_,
    fun h => ?_, fun h => ?_, fun h => ?_, fun h => ?_, fun h => ?_⟩
  · refine exec_next_of_sameReads h (g := id) ?_ (fun _ => rfl) ?_
    · cases i <;> simp [SameReads]
    · cases i <;> exact fun _ => rfl
  · refine exec_next_of_sameReads h (g := (·.setB b)) ?_ (fun _ => rfl) ?_
    · cases i <;> simp [SameReads]
    · cases i with
      | block => exact absurd rfl hi
      | _ => exact fun _ => rfl
  · exact exec_next_of_sameReads h (g := onFailure (·.setB b)) ⟨rfl, rfl⟩ (carriesFailure_onFailure fun _ => rfl)
      (fun _ => rfl)
  · exact exec_next_of_sameReads h (g := (·.setC cv)) ⟨rfl, rfl, rfl, rfl⟩ (fun _ => rfl) (fun _ => rfl)
  · exact exec_next_of_sameReads h (g := onFailure (·.setK k)) ⟨rfl, rfl, rfl, rfl⟩
      (carriesFailure_onFailure fun _ => rfl) (fun _ => rfl)
  · exact exec_next_of_sameReads h (g := (·.setK k)) ⟨rfl, rfl, rfl, rfl, rfl⟩ (fun _ => rfl) (fun _ => rfl)
  · exact exec_next_of_sameReads h (g := onFailure (·.setC cv)) ⟨rfl, rfl, rfl, rfl, rfl⟩
      (carriesFailure_onFailure fun _ => rfl) (fun _ => rfl)
  · exact exec_next_of_sameReads h (g := fun t => ((t.setDst d).setDlen l).setArg w) ⟨rfl, rfl, rfl, rfl⟩
      (fun _ => rfl) (fun _ => rfl)
  · exact exec_next_of_sameReads h (g := fun t => (t.setDst d).setDlen l) ⟨rfl, rfl, rfl, rfl, rfl⟩
      (fun _ => rfl) (fun _ => rfl)
  · exact exec_next_of_sameReads h (g := fun t => (((((t.setK k).setSrc a).setSlen n).setDst d).setDlen l).setArg w) rfl
      (fun _ => rfl) (fun _ => rfl)
  · exact exec_next_of_sameReads h (g := fun t => ((((t.setSrc a).setSlen n).setDst d).setDlen l).setArg w) ⟨rfl, rfl⟩
      (fun _ => rfl) (fun _ => rfl)
  · exact exec_next_of_sameReads h (g := fun t => ((t.setSrc a).setSlen n).setArg w) ⟨rfl, rfl, rfl, rfl, rfl, rfl⟩
      (fun _ => rfl) (fun _ => rfl)
  · exact exec_next_of_sameReads h (g := (·.setArg w)) ⟨rfl, rfl, rfl, rfl, rfl, rfl, rfl, rfl⟩
      (fun _ => rfl) (fun _ => rfl)

/-! The host's own lines on memory -/

section
variable {a n : Nat} {go : Host.Outcome State Fault Refusal}

theorem hostMem_plain (ha : a + n ≤ 2 ^ s.cfg.aw.val) (hplain : isPlain s.cfg a n = true) : hostMem s a n go = go := by
  rw [hostMem, if_pos ha, requirePlain_of_isPlain hplain]

theorem hostMem_outside (ha : 2 ^ s.cfg.aw.val < a + n) : hostMem s a n go = .fault .outsideAddressSpace :=
  if_neg (by omega)

theorem hostMem_windows (ha : a + n ≤ 2 ^ s.cfg.aw.val) :
    (hitsRegisters s.cfg a n = true → hostMem s a n go = .refused .registerWindow) ∧
    (hitsRegisters s.cfg a n = false → hitsDevice s.cfg a n = true → hostMem s a n go = .refused .deviceWindow) := by
  simp +contextual [hostMem, ha, requirePlain]

end

/-- Settles O42: both lines are `hostMem` of their own region. -/
theorem hostMemoryLines : Obligations.HostMemoryLines := by
  intro s a n bytes rest
  refine ⟨fun hs ha hplain => ⟨s.mem.writeBytes a bytes, ?_, Memory.readBytes_writeBytes .., fun x hx =>
    Memory.readByte_writeBytes_out _ a x bytes hx⟩, fun hs ha => ?_, fun hs ha hplain => ?_, fun hs ha => ?_,
    fun hs ha => ?_, fun hs ha => ?_⟩ <;> rw [step_cons hs]
  · exact hostMem_plain ha hplain
  · exact hostMem_outside ha
  · exact hostMem_plain ha hplain
  · exact hostMem_outside ha
  · exact hostMem_windows ha
  · exact hostMem_windows ha

end Sys2Proof.Machine
end

section
/-! The proofs of the statements on the Block Function (40_block_function.md).

A quarter round is two half rounds, each injective because a rotation loses no bit. In a state it reads and replaces
the words of its lane alone (`getElem_quarterRoundAt`), so quarter rounds on disjoint lanes commute and the lanes of a
round may come in any order. -/

namespace Sys2Proof.Machine

/-! Rotation and the quarter round -/

/-- `rotl32` is the library's rotation (R102). -/
theorem rotl32_eq_rotateLeft (x : Word) {n : Nat} (hn : n < 32) : rotl32 x n = x.rotateLeft n := by
  simp [rotl32, BitVec.rotateLeft, BitVec.rotateLeftAux, Nat.mod_eq_of_lt hn]

theorem getLsbD_rotl32 (x : Word) {n i : Nat} (hn : n < 32) (hi : i < 32) :
    (rotl32 x n).getLsbD ((i + n) % 32) = x.getLsbD i := by
  rw [rotl32_eq_rotateLeft x hn, BitVec.getLsbD_rotateLeft, Nat.mod_eq_of_lt hn]
  rcases Nat.lt_or_ge (i + n) 32 with hlow | hwrap
  · have hpos : (i + n) % 32 = i + n := Nat.mod_eq_of_lt hlow
    simp [hpos, hlow]
  · have hpos : (i + n) % 32 = i + n - 32 := by omega
    have hcarried : i + n - 32 < n := by omega
    have hback : 32 - n + (i + n - 32) = i := by omega
    simp [hpos, hcarried, hback]

/-- Settles O46. -/
theorem rotationMovesBitsLeft : Obligations.RotationMovesBitsLeft :=
  fun x _ _ _ hn hi => getLsbD_rotl32 x hn hi

/-- Each bit of the word stands somewhere in its rotation. -/
theorem rotl32_injective {n : Nat} (hn : n < 32) : Function.Injective (rotl32 · n) := by
  intro x y h
  refine BitVec.eq_of_getLsbD_eq fun i hi => ?_
  have hbit := congrArg (·.getLsbD ((i + n) % 32)) h
  simpa only [getLsbD_rotl32 _ hn hi] using hbit

/-- Six of the twelve steps of R103: `d` is rotated by `m`, `b` by `n`. -/
def halfRound (m n : Nat) (x : Word × Word × Word × Word) : Word × Word × Word × Word :=
  let a := x.1 + x.2.1
  let d := rotl32 (x.2.2.2 ^^^ a) m
  let c := x.2.2.1 + d
  let b := rotl32 (x.2.1 ^^^ c) n
  (a, b, c, d)

theorem quarterRound_eq_halfRounds (x : Word × Word × Word × Word) :
    quarterRound x.1 x.2.1 x.2.2.1 x.2.2.2 = halfRound 8 7 (halfRound 16 12 x) := rfl

/-- The steps are undone one by one, the last first: each adds, XORs or rotates with words that are still at hand. -/
theorem halfRound_injective {m n : Nat} (hm : m < 32) (hn : n < 32) : Function.Injective (halfRound m n) := by
  rintro ⟨a, b, c, d⟩ ⟨a', b', c', d'⟩ h
  simp only [halfRound, Prod.mk.injEq] at h
  obtain ⟨ha, hb, hc, hd⟩ := h
  obtain rfl : b = b' := by
    rw [hc] at hb
    exact (BitVec.xor_left_inj _).mp (rotl32_injective hn hb)
  obtain rfl : c = c' := by
    rw [hd] at hc
    exact (BitVec.add_left_inj _).mp hc
  obtain rfl : d = d' := by
    rw [ha] at hd
    exact (BitVec.xor_left_inj _).mp (rotl32_injective hm hd)
  obtain rfl : a = a' := (BitVec.add_left_inj _).mp ha
  rfl

/-- Settles O47: on a finite type an injective function is a bijection. -/
theorem quarterRoundBijective : Obligations.QuarterRoundBijective := by
  refine ⟨?_, ?_, by decide, by decide, by decide⟩
  · apply Function.Injective.bijective_of_finite
    simp only [quarterRound_eq_halfRounds]
    exact (halfRound_injective (by decide) (by decide)).comp (halfRound_injective (by decide) (by decide))
  · rintro a b c d _ _ _ _ _ _ _ _ rfl rfl rfl rfl rfl rfl rfl rfl
    rfl

/-! A quarter round in a state -/

section
variable {x y : WordBlock} {i j k l h : Fin 16}

/-- Every word of the state after a quarter round (R104). -/
theorem getElem_quarterRoundAt {q : Word × Word × Word × Word} (hq : quarterRound x[i] x[j] x[k] x[l] = q)
    (h : Fin 16) : (quarterRoundAt x i j k l)[h] =
      if l = h then q.2.2.2 else if k = h then q.2.2.1 else if j = h then q.2.1 else if i = h then q.1 else x[h] := by
  subst hq
  simp [quarterRoundAt, Vector.getElem_set, Fin.ext_iff]

theorem getElem_quarterRoundAt_of_notMem (hh : h ∉ [i, j, k, l]) : (quarterRoundAt x i j k l)[h] = x[h] := by
  simp only [List.mem_cons, List.not_mem_nil, or_false, not_or] at hh
  obtain ⟨hi, hj, hk, hl⟩ := hh
  simp [getElem_quarterRoundAt rfl, Ne.symm hi, Ne.symm hj, Ne.symm hk, Ne.symm hl]

/-- A word after a quarter round depends on the lane's words and on the word itself alone. -/
theorem getElem_quarterRoundAt_congr (hlane : ∀ w ∈ [i, j, k, l], x[w] = y[w]) (hh : x[h] = y[h]) :
    (quarterRoundAt x i j k l)[h] = (quarterRoundAt y i j k l)[h] := by
  simp only [List.forall_mem_cons, List.not_mem_nil, false_implies, implies_true, and_true] at hlane
  obtain ⟨hi, hj, hk, hl⟩ := hlane
  rw [getElem_quarterRoundAt rfl, getElem_quarterRoundAt rfl, hi, hj, hk, hl, hh]

/-- Settles O48. -/
theorem quarterRoundAtTouchesFourWords : Obligations.QuarterRoundAtTouchesFourWords := by
  intro x i j k l hnodup
  refine ⟨?_, fun h => getElem_quarterRoundAt_of_notMem⟩
  simp only [List.nodup_cons, List.mem_cons, List.not_mem_nil, or_false, not_or] at hnodup
  obtain ⟨⟨hij, hik, hil⟩, ⟨hjk, hjl⟩, hkl, -⟩ := hnodup
  simp [getElem_quarterRoundAt rfl, Ne.symm hij, Ne.symm hik, Ne.symm hil, Ne.symm hjk, Ne.symm hjl, Ne.symm hkl]

/-! The order of quarter rounds (R108) -/

variable {i' j' k' l' : Fin 16}

/-- Outside its own lane, an earlier quarter round on a disjoint lane is not seen. -/
theorem getElem_quarterRoundAt_quarterRoundAt (hdisj : [i, j, k, l].Disjoint [i', j', k', l'])
    (hh : h ∉ [i, j, k, l]) :
    (quarterRoundAt (quarterRoundAt x i j k l) i' j' k' l')[h] = (quarterRoundAt x i' j' k' l')[h] :=
  getElem_quarterRoundAt_congr (fun _ hw => getElem_quarterRoundAt_of_notMem (hdisj.symm hw))
    (getElem_quarterRoundAt_of_notMem hh)

theorem wordBlock_ext (hwords : ∀ h : Fin 16, x[h] = y[h]) : x = y :=
  Vector.ext fun n hn => hwords ⟨n, hn⟩

theorem quarterRoundAt_comm (x : WordBlock) (hdisj : [i, j, k, l].Disjoint [i', j', k', l']) :
    quarterRoundAt (quarterRoundAt x i j k l) i' j' k' l' =
      quarterRoundAt (quarterRoundAt x i' j' k' l') i j k l := by
  refine wordBlock_ext fun h => ?_
  by_cases hh : h ∈ [i, j, k, l]
  · have hout := hdisj hh
    rw [getElem_quarterRoundAt_of_notMem hout, getElem_quarterRoundAt_quarterRoundAt hdisj.symm hout]
  · rw [getElem_quarterRoundAt_quarterRoundAt hdisj hh, getElem_quarterRoundAt_of_notMem hh]

end

/-- The four indices of a quarter round in a state. -/
abbrev Lane := Fin 16 × Fin 16 × Fin 16 × Fin 16

/-- The words of the state that the lane's quarter round replaces. -/
abbrev Lane.indices (q : Lane) : List (Fin 16) := [q.1, q.2.1, q.2.2.1, q.2.2.2]

/-- The quarter rounds of the lanes, the first of the list first. -/
abbrev quarterRounds (lanes : List Lane) (x : WordBlock) : WordBlock :=
  lanes.foldl (fun x q => quarterRoundAt x q.1 q.2.1 q.2.2.1 q.2.2.2) x

/-- Lanes that share no index may be listed in any order. -/
theorem quarterRounds_perm {lanes lanes' : List Lane} (hperm : lanes'.Perm lanes)
    (hnodup : (lanes.flatMap Lane.indices).Nodup) (x : WordBlock) : quarterRounds lanes' x = quarterRounds lanes x := by
  have hdisj := (List.nodup_flatMap.mp hnodup).2
  have hsymm : Std.Symm (Function.onFun List.Disjoint Lane.indices) := ⟨fun _ _ h => h.symm⟩
  refine (hperm.symm.foldl_eq' (fun p hp q hq z => ?_) x).symm
  by_cases hpq : p = q
  · rw [hpq]
  · exact quarterRoundAt_comm z (hdisj.forall hp hq hpq)

/-- Settles O49: the lanes of each round list every index once, so they are pairwise disjoint. -/
theorem disjointQuarterRoundsCommute : Obligations.DisjointQuarterRoundsCommute := by
  refine ⟨fun x i j k l i' j' k' l' hnodup => quarterRoundAt_comm x (List.disjoint_of_nodup_append hnodup),
    fun columns diagonals hcolumns hdiagonals => ⟨?_, ?_, fun x => ⟨?_, ?_⟩⟩⟩
  · exact (hcolumns.flatMap_right Lane.indices).trans (by decide)
  · exact (hdiagonals.flatMap_right Lane.indices).trans (by decide)
  · exact quarterRounds_perm hcolumns (by decide) x
  · exact quarterRounds_perm hdiagonals (by decide) x

/-! The block -/

/-- Byte `j` of words written in little-endian order (R110). -/
theorem getElem?_flatMap_bytes32 (words : List Word) (j : Nat) :
    (words.flatMap bytes32)[j]? = words[j / 4]?.map (·.extractLsb' (8 * (j % 4)) 8) := by
  induction words generalizing j with
  | nil => simp
  | cons w words ih =>
    rw [List.flatMap_cons]
    rcases Nat.lt_or_ge j 4 with hj | hj
    · rw [List.getElem?_append_left hj]
      interval_cases j <;> rfl
    · obtain ⟨j, rfl⟩ := Nat.exists_eq_add_of_le' hj
      rw [List.getElem?_append_right hj, length_bytes32, Nat.add_sub_cancel, ih,
        Nat.add_div_right j (by decide), Nat.add_mod_right, List.getElem?_cons_succ]

/-- Settles O50. -/
theorem blockByteLayout : Obligations.BlockByteLayout := by
  intro k cv
  refine ⟨length_block k cv, fun j hj => ?_⟩
  rw [block, getElem?_flatMap_bytes32]
  have hword : j / 4 < 16 := by omega
  simp [hword]

/-- With a key and a counter loaded `BLOCK` completes, whatever the counter (R112). -/
theorem exec_block_loaded {s : State} {k : Key} {cv : Counter} (hk : s.k = some k) (hc : s.c = some cv) :
    exec .block s = .next ((s.setB (some (blockWords k cv))).setErr 0) :=
  (withKey_some hk).trans (withCounter_some hc)

/-- Settles O9: the key is asked for first, then the counter. -/
theorem blockMeaning : Obligations.BlockMeaning := by
  refine ⟨decode_encode .block, fun s => ?_⟩
  cases hk : s.k with
  | none => exact withKey_none hk
  | some k =>
    cases hc : s.c with
    | none => exact (withKey_some hk).trans (withCounter_none hc)
    | some cv => exact exec_block_loaded hk hc

theorem doubleRounds_eq_iterate (n : Nat) (x : WordBlock) : doubleRounds n x = doubleRound^[n] x := by
  induction n generalizing x with
  | zero => rfl
  | succ n ih => exact ih (doubleRound x)

/-- The feed-forward, word by word (R109). -/
theorem getElem_blockWords (k : Key) (cv : Counter) (i : Fin 16) :
    (blockWords k cv)[i] = (doubleRound^[10] (initState k cv))[i] + (initState k cv)[i] := by
  simp [blockWords, doubleRounds_eq_iterate]

/-- Where the initial state holds the key and the counter (R101). -/
theorem getElem_initState (k : Key) (cv : Counter) :
    (∀ i : Fin 8, (initState k cv)[4 + i.val] = k[i]) ∧ (∀ i : Fin 4, (initState k cv)[12 + i.val] = cv[i]) := by
  constructor <;> intro i <;> fin_cases i <;> rfl

/-- Settles O17: `BLOCK` leaves `BlockWords` in the block register, where the host reads it. -/
theorem blockDeliversFeedForward : Obligations.BlockDeliversFeedForward := by
  refine ⟨fun s k cv hk hc => ⟨blockWords k cv, exec_block_loaded hk hc, fun i => ?_⟩,
    fun k cv => ⟨rfl, rfl, rfl, rfl, getElem_initState k cv⟩, fun x => ⟨rfl, rfl, rfl⟩⟩
  rw [readReg_blk]
  exact getElem_blockWords k cv i

end Sys2Proof.Machine
end

section
/-! The proofs of the statements on the loader (41_state_counter_loader.md).

`LDKEY` and `LDCTR` make the same checks on one region (`loaderChecks`) and read their words from it in little-endian
order (`toNat_le32_readBytes`). -/

namespace Sys2Proof.Machine

variable {s : State} {n : Nat} {e : CmdError} {go : Host.Outcome State Fault Refusal}

/-! The checks of the two load commands -/

/-- A check whose failure is `P`. -/
theorem require_eq_ite {p : Bool} {P : Prop} [Decidable P] (hp : p = false ↔ P) :
    require p e s go = if P then .next (s.setErr e.code) else go := by
  cases p
  · rw [if_pos (hp.mp rfl), require_false]
  · rw [if_neg (by simp [← hp]), require_true]

/-- A region that is not empty is out of range exactly when it ends above `2^AW` (R56). -/
theorem inRange_eq_false_iff {cfg : Config} {a : Word} (hn : 0 < n) :
    inRange cfg a n = false ↔ a.toNat + n > 2 ^ cfg.aw.val := by
  rw [← Bool.not_eq_true, inRange_iff]
  omega

/-- What `LDKEY` and `LDCTR` check of their `n` bytes at `SRC`, in the order of R131 and R133; `e` is the error for a
wrong length. -/
def loaderChecks (s : State) (n : Nat) (e : CmdError) (go : Host.Outcome State Fault Refusal) :
    Host.Outcome State Fault Refusal :=
  require (s.slen == BitVec.ofNat 32 n) e s <|
  require (inRange s.cfg s.src n) .addressRange s <|
  require (memOK s.cfg .read s.src.toNat n) .memFault s <|
  requirePlain s.cfg s.src.toNat n go

theorem exec_ldkey_eq_loaderChecks (s : State) : exec .ldkey s = loaderChecks s 32 .invalidKeyLength
    (.next ((s.setK (some (keyWords (s.mem.readBytes s.src.toNat 32)))).setErr 0)) := rfl

theorem exec_ldctr_eq_loaderChecks (s : State) : exec .ldctr s = loaderChecks s 12 .invalidNonceLength
    (.next ((s.setC (some (build (s.mem.readBytes s.src.toNat 12) s.arg))).setErr 0)) := rfl

/-- On plain memory each failed check has its error, the first in the order wins. -/
theorem loaderChecks_eq_ite (hn : 0 < n) (hplain : isPlain s.cfg s.src.toNat n = true) :
    loaderChecks s n e go =
      if s.slen ≠ BitVec.ofNat 32 n then .next (s.setErr e.code)
      else if s.src.toNat + n > 2 ^ s.cfg.aw.val then .next (s.setErr 8)
      else if memOK s.cfg .read s.src.toNat n = false then .next (s.setErr 9)
      else go := by
  rw [loaderChecks, requirePlain_of_isPlain hplain, require_eq_ite beq_eq_false_iff_ne,
    require_eq_ite (inRange_eq_false_iff hn), require_eq_ite Iff.rfl]
  rfl

theorem loaderChecks_pass (hn : 0 < n) (hlen : s.slen = BitVec.ofNat 32 n)
    (hrange : s.src.toNat + n ≤ 2 ^ s.cfg.aw.val) (hmem : memOK s.cfg .read s.src.toNat n = true)
    (hplain : isPlain s.cfg s.src.toNat n = true) : loaderChecks s n e go = go := by
  rw [loaderChecks_eq_ite hn hplain, if_neg (not_not.mpr hlen), if_neg (not_lt.mpr hrange), if_neg (by simp [hmem])]

/-- Settles O6. -/
theorem ldkeyMeaning : Obligations.LdkeyMeaning :=
  ⟨decode_encode .ldkey, fun s hplain =>
    (exec_ldkey_eq_loaderChecks s).trans (loaderChecks_eq_ite (by decide) hplain)⟩

/-- Settles O7. -/
theorem ldctrMeaning : Obligations.LdctrMeaning :=
  ⟨decode_encode .ldctr, fun s hplain =>
    (exec_ldctr_eq_loaderChecks s).trans (loaderChecks_eq_ite (by decide) hplain)⟩

/-! The words they load -/

theorem Memory.getD_readBytes (m : Memory) (a : Nat) {i : Nat} (hi : i < n) :
    (m.readBytes a n).getD i 0 = m.readByte (a + i) := by
  simp [hi]

theorem le32_eq_le32_getD (bytes : List Byte) (o : Nat) : le32 bytes o =
    le32 [bytes.getD o 0, bytes.getD (o + 1) 0, bytes.getD (o + 2) 0, bytes.getD (o + 3) 0] 0 := rfl

/-- A word of a region is the sum of its four bytes, the lowest address least significant (R50). -/
theorem toNat_le32_readBytes (m : Memory) (a : Nat) {o : Nat} (ho : o + 3 < n) :
    (le32 (m.readBytes a n) o).toNat =
      (m.readByte (a + o)).toNat + 2 ^ 8 * (m.readByte (a + o + 1)).toNat
      + 2 ^ 16 * (m.readByte (a + o + 2)).toNat + 2 ^ 24 * (m.readByte (a + o + 3)).toNat := by
  rw [le32_eq_le32_getD, toNat_le32, Memory.getD_readBytes m a (by omega : o < n),
    Memory.getD_readBytes m a (by omega : o + 1 < n), Memory.getD_readBytes m a (by omega : o + 2 < n),
    Memory.getD_readBytes m a ho]
  rfl

/-- `KeyWords`, word by word (R130). -/
theorem getElem_keyWords (bytes : List Byte) (i : Fin 8) : (keyWords bytes)[i] = le32 bytes (4 * i.val) := by
  fin_cases i <;> rfl

/-- The nonce words of `Build` (R132). -/
theorem getElem_build_nonce (nonce : List Byte) (ctr : Word) (i : Fin 3) :
    (build nonce ctr)[i.val + 1] = le32 nonce (4 * i.val) := by
  fin_cases i <;> rfl

/-- Settles O14: word `i` of the key is `le32` at `4i`. -/
theorem ldkeyLoadsLittleEndianKey : Obligations.LdkeyLoadsLittleEndianKey := by
  intro s hlen hrange hmem hplain
  refine ⟨_, loaderChecks_pass (by decide) hlen hrange hmem hplain, fun i => ?_⟩
  rw [getElem_keyWords]
  exact toNat_le32_readBytes s.mem s.src.toNat (by omega)

/-- Settles O15: word `i + 1` of the counter is `le32` of the nonce at `4i`. -/
theorem ldctrBuildsCounter : Obligations.LdctrBuildsCounter := by
  intro s hlen hrange hmem hplain
  refine ⟨_, loaderChecks_pass (by decide) hlen hrange hmem hplain, rfl, fun i => ?_⟩
  rw [getElem_build_nonce]
  exact toNat_le32_readBytes s.mem s.src.toNat (by omega)

/-! Advancing the counter -/

/-- `Next` of a counter that is not at its last value, written out (R134). -/
theorem nextCounter_of_ne {cv : Counter} (h : cv[0] ≠ 0xFFFFFFFF) :
    nextCounter cv = some #v[cv[0] + 1, cv[1], cv[2], cv[3]] := by
  rw [nextCounter, if_neg h]
  refine congrArg some (Vector.ext fun i hi => ?_)
  interval_cases i <;> simp

/-- With a counter loaded `CTRNEXT` overflows at the last value and advances elsewhere (R135). -/
theorem exec_ctrnext_loaded {cv : Counter} (hc : s.c = some cv) :
    exec .ctrnext s =
      if cv[0] = 0xFFFFFFFF then .next (s.setErr 4)
      else .next ((s.setC (some #v[cv[0] + 1, cv[1], cv[2], cv[3]])).setErr 0) := by
  rw [exec, execCtrnext, withCounter_some hc]
  split_ifs with h
  · rw [nextCounter, if_pos h]
    rfl
  · rw [nextCounter_of_ne h]
    rfl

/-- Settles O8. -/
theorem ctrnextMeaning : Obligations.CtrnextMeaning := by
  refine ⟨decode_encode .ctrnext, fun s => ?_⟩
  cases hc : s.c with
  | none => exact withCounter_none hc
  | some cv => exact exec_ctrnext_loaded hc

/-- Settles O16: below the last value the 32-bit sum does not wrap. -/
theorem ctrnextAdvancesBlockCounter : Obligations.CtrnextAdvancesBlockCounter := by
  intro s cv hc
  have hlast : cv[0] = 0xFFFFFFFF ↔ cv[0].toNat = 0xFFFFFFFF := BitVec.toNat_inj.symm
  rw [exec_ctrnext_loaded hc]
  refine ⟨fun hlt => ⟨_, if_neg (mt hlast.mp hlt.ne), ?_, rfl, rfl, rfl⟩, fun heq => if_pos (hlast.mpr heq)⟩
  exact BitVec.toNat_add_of_lt (Nat.succ_lt_succ hlt)

end Sys2Proof.Machine
end

section
/-! The proofs of the statements on the keystream generator (42_keystream_generator.md).

Byte `i` of a keystream is byte `i mod 64` of block `i div 64` (`getElem?_keystream`), whatever the length asked for:
the rules on a shorter keystream, on continuation and on what `KSGEN` stores compare bytes through it. -/

namespace Sys2Proof.Machine

/-! Successive counters -/

@[simp] theorem counterAt_zero (cv : Counter) : counterAt cv 0 = cv := by
  simp [counterAt]

theorem counterAt_eq_set (cv : Counter) (j : Nat) : counterAt cv j = cv.set 0 (cv[0] + BitVec.ofNat 32 j) := by
  simp [counterAt, BitVec.ofNat_add]

/-- `CounterAt` copies the nonce words (R150). -/
theorem getElem_counterAt_nonce (cv : Counter) (j : Nat) {i : Nat} (hi : i < 4) (hnonce : 0 ≠ i) :
    (counterAt cv j)[i] = cv[i] :=
  Vector.getElem_set_ne _ hi hnonce

/-- Advancing by `i` and then by `j` is advancing by `i + j`, a wrap included. -/
theorem counterAt_counterAt (cv : Counter) (i j : Nat) : counterAt (counterAt cv i) j = counterAt cv (i + j) := by
  simp [counterAt_eq_set, BitVec.ofNat_add, BitVec.add_assoc]

/-- With room for `j` the sum in word 0 does not wrap (R150). -/
theorem toNat_counterAt {cv : Counter} {j : Nat} (hj : j < 2 ^ 32 - cv[0].toNat) :
    (counterAt cv j)[0].toNat = cv[0].toNat + j := by
  simp only [counterAt, Vector.getElem_set_self, BitVec.toNat_ofNat]
  exact Nat.mod_eq_of_lt (by omega)

/-- Where `Next` does not overflow it advances by 1 (R134). -/
theorem nextCounter_eq_counterAt {cv : Counter} (h : cv[0].toNat ≠ 0xFFFFFFFF) :
    nextCounter cv = some (counterAt cv 1) := by
  rw [nextCounter, if_neg fun hlast => h (congrArg BitVec.toNat hlast), counterAt_eq_set]
  rfl

/-- Settles O51: `Next` is one more step of `CounterAt`. -/
theorem counterAtIteratesNext : Obligations.CounterAtIteratesNext := by
  intro cv
  refine ⟨counterAt_zero cv, fun j hj => ⟨toNat_counterAt hj, getElem_counterAt_nonce cv j _ (by decide),
    getElem_counterAt_nonce cv j _ (by decide), getElem_counterAt_nonce cv j _ (by decide)⟩, fun j hj => ?_⟩
  have hword : (counterAt cv j)[0].toNat = cv[0].toNat + j := toNat_counterAt (by omega)
  rw [nextCounter_eq_counterAt (by omega), counterAt_counterAt]

/-! Room for a keystream -/

theorem blocksNeeded_le_iff {n b : Nat} : blocksNeeded n ≤ b ↔ n ≤ 64 * b := by
  unfold blocksNeeded
  omega

/-- Settles O52: each clause is linear arithmetic on the number of blocks left. -/
theorem counterRoomExact : Obligations.CounterRoomExact := by
  intro cv n
  have hword : cv[0].toNat < 2 ^ 32 := cv[0].isLt
  refine ⟨fun b => blocksNeeded_le_iff, ?_, fun hn hlow => ?_, fun hlast => ?_⟩
  · rw [counterRoom_iff]
    omega
  · rw [counterRoom_iff, blocksNeeded_le_iff]
    omega
  · rw [counterRoom_iff, blocksNeeded_le_iff]
    omega

theorem counterRoom_eq_false_iff {cv : Counter} {n : Nat} :
    counterRoom cv n = false ↔ blocksNeeded n > 2 ^ 32 - cv[0].toNat := by
  rw [← Bool.not_eq_true, counterRoom_iff, not_le]

/-! The bytes of a keystream -/

/-- In a concatenation of strings of `n` bytes, byte `i` is byte `i mod n` of string `i div n`. -/
theorem getElem?_flatMap_const {α : Type} {f : α → List Byte} {n : Nat} (hn : 0 < n) (h : ∀ x, (f x).length = n)
    (l : List α) (i : Nat) : (l.flatMap f)[i]? = l[i / n]?.bind (fun x => (f x)[i % n]?) := by
  induction l generalizing i with
  | nil => simp
  | cons x l ih =>
    rw [List.flatMap_cons]
    rcases Nat.lt_or_ge i n with hi | hi
    · rw [List.getElem?_append_left (hi.trans_eq (h x).symm), Nat.div_eq_of_lt hi, Nat.mod_eq_of_lt hi]
      rfl
    · obtain ⟨i, rfl⟩ := Nat.exists_eq_add_of_le' hi
      rw [List.getElem?_append_right ((h x).trans_le hi), h, Nat.add_sub_cancel, ih, Nat.add_div_right i hn,
        Nat.add_mod_right, List.getElem?_cons_succ]

/-- Byte `i` of a keystream does not depend on the keystream's length (R153). -/
theorem getElem?_keystream (k : Key) (cv : Counter) (n i : Nat) :
    (keystream k cv n)[i]? = if i < n then (block k (counterAt cv (i / 64)))[i % 64]? else none := by
  rw [keystream, List.getElem?_take, getElem?_flatMap_const (by decide) fun j => length_block k (counterAt cv j)]
  split_ifs with hi
  · have hblock : i / 64 < blocksNeeded n := by
      have := le_blocksNeeded n
      omega
    rw [List.getElem?_range hblock, Option.bind_some]
  · rfl

/-- A shorter keystream is the start of a longer one (R154 (a)). -/
theorem keystream_eq_take (k : Key) (cv : Counter) {p n : Nat} (hp : p ≤ n) :
    keystream k cv p = (keystream k cv n).take p := by
  refine List.ext_getElem? fun i => ?_
  rw [List.getElem?_take, getElem?_keystream, getElem?_keystream]
  split_ifs with hip hin
  · rfl
  · omega
  · rfl

/-- A keystream continues at a block boundary with the counter advanced by the blocks before it (R154 (b)). -/
theorem keystream_append (k : Key) (cv : Counter) (a m : Nat) :
    keystream k cv (64 * a + m) = keystream k cv (64 * a) ++ keystream k (counterAt cv a) m := by
  refine List.ext_getElem? fun i => ?_
  rcases Nat.lt_or_ge i (64 * a) with hi | hi
  · rw [List.getElem?_append_left (by rwa [length_keystream]), getElem?_keystream, getElem?_keystream, if_pos hi,
      if_pos (by omega)]
  · obtain ⟨i, rfl⟩ := Nat.exists_eq_add_of_le hi
    rw [List.getElem?_append_right (by rwa [length_keystream]), length_keystream, Nat.add_sub_cancel_left,
      getElem?_keystream, getElem?_keystream, counterAt_counterAt, Nat.mul_add_div (by decide), Nat.mul_add_mod]
    simp only [Nat.add_lt_add_iff_left]

/-- Settles O53: both parts hold at every length, room or not. -/
theorem keystreamPrefixAndContinuation : Obligations.KeystreamPrefixAndContinuation :=
  fun k cv _ _ => ⟨fun _ hp => keystream_eq_take k cv hp, fun a m hn => hn ▸ keystream_append k cv a m⟩

/-! The command -/

/-- A region is out of range exactly when it ends above `2^AW` (R56), but for the empty one at `2^AW` (log 6). -/
theorem inRange_eq_false_iff_of_not_emptyAtEnd {cfg : Config} {a : Word} {n : Nat}
    (h : ¬(n = 0 ∧ a.toNat = 2 ^ cfg.aw.val)) : inRange cfg a n = false ↔ a.toNat + n > 2 ^ cfg.aw.val := by
  rw [← Bool.not_eq_true, inRange_iff]
  omega

section
variable {s : State} {k : Key} {cv : Counter}

/-- With a key and a counter loaded, on plain memory, each failed check of `KSGEN` has its error, the first in the
order wins (R156). -/
theorem exec_ksgen_loaded (hk : s.k = some k) (hc : s.c = some cv)
    (hend : ¬(s.dlen.toNat = 0 ∧ s.dst.toNat = 2 ^ s.cfg.aw.val))
    (hplain : isPlain s.cfg s.dst.toNat s.dlen.toNat = true) :
    exec .ksgen s =
      if blocksNeeded s.dlen.toNat > 2 ^ 32 - cv[0].toNat then .next (s.setErr 4)
      else if s.dst.toNat + s.dlen.toNat > 2 ^ s.cfg.aw.val then .next (s.setErr 8)
      else if memOK s.cfg .write s.dst.toNat s.dlen.toNat = false then .next (s.setErr 9)
      else .next ((s.setMem (s.mem.writeBytes s.dst.toNat (keystream k cv s.dlen.toNat))).setErr 0) := by
  rw [exec, execKsgen, withKey_some hk, withCounter_some hc, requirePlain_of_isPlain hplain,
    require_eq_ite counterRoom_eq_false_iff, require_eq_ite (inRange_eq_false_iff_of_not_emptyAtEnd hend),
    require_eq_ite Iff.rfl]
  rfl

/-- Where every check passes, `KSGEN` stores the keystream (R156). -/
theorem exec_ksgen_pass (hk : s.k = some k) (hc : s.c = some cv)
    (hroom : blocksNeeded s.dlen.toNat ≤ 2 ^ 32 - cv[0].toNat) (hstart : s.dst.toNat < 2 ^ s.cfg.aw.val)
    (hrange : s.dst.toNat + s.dlen.toNat ≤ 2 ^ s.cfg.aw.val)
    (hmem : memOK s.cfg .write s.dst.toNat s.dlen.toNat = true)
    (hplain : isPlain s.cfg s.dst.toNat s.dlen.toNat = true) :
    exec .ksgen s =
      .next ((s.setMem (s.mem.writeBytes s.dst.toNat (keystream k cv s.dlen.toNat))).setErr 0) := by
  rw [exec_ksgen_loaded hk hc (fun hend => hstart.ne hend.2) hplain, if_neg (not_lt.mpr hroom),
    if_neg (not_lt.mpr hrange), if_neg (by simp [hmem])]

end

/-- Settles O10: the key is asked for first, then the counter. -/
theorem ksgenMeaning : Obligations.KsgenMeaning := by
  refine ⟨decode_encode .ksgen, fun s hend hplain => ?_⟩
  cases hk : s.k with
  | none => exact withKey_none hk
  | some k =>
    cases hc : s.c with
    | none => exact (withKey_some hk).trans (withCounter_none hc)
    | some cv => exact exec_ksgen_loaded hk hc (fun h => hend ⟨BitVec.eq_of_toNat_eq h.1, h.2⟩) hplain

/-- Settles O18: the memory left is the old one with the keystream stored at `DST`. -/
theorem ksgenWritesKeystreamBytes : Obligations.KsgenWritesKeystreamBytes := by
  intro s k cv hk hc hroom hstart hrange hmem hplain
  refine ⟨_, exec_ksgen_pass hk hc hroom hstart hrange hmem hplain, fun i hi => ?_, fun a ha => ?_⟩
  · have hlen : i < (keystream k cv s.dlen.toNat).length := by rwa [length_keystream]
    rw [Memory.readByte_writeBytes_in _ _ _ _ hlen, ← List.getElem?_eq_getElem hlen, getElem?_keystream, if_pos hi]
  · exact Memory.readByte_writeBytes_out _ _ _ _ (by rwa [length_keystream])

end Sys2Proof.Machine
end

section
/-! The proofs of the statements on the buffer XOR engine (43_buffer_xor_engine.md).

A successful `XOR` passed every check (`XorPasses`) and stores `xorOutput`; the rules on the command compare these
bytes. A chunk sequence leaves the memory of the snapshot transition when its order is safe: no chunk reads what an
earlier one has written (`foldl_chunkStep_eq_snapshot`). Which orders are safe is arithmetic on the chunks' spans. -/

namespace Sys2Proof.Machine

/-! `XorBytes` (R170) -/

section
variable (k : Key) (cv : Counter) (s : List Byte)

theorem getElem_xorBytes {i : Nat} (hi : i < (xorBytes k cv s).length) :
    (xorBytes k cv s)[i] =
      s[i]'(by rwa [length_xorBytes] at hi) ^^^ (keystream k cv s.length)[i]'(by simpa using hi) :=
  List.getElem_zipWith

/-- R181 (b). -/
theorem xorBytes_xorBytes : xorBytes k cv (xorBytes k cv s) = s := by
  refine List.ext_getElem (by simp) fun i _ _ => ?_
  simp only [getElem_xorBytes, length_xorBytes, BitVec.xor_assoc, BitVec.xor_self, BitVec.xor_zero]

/-- R181 (c). -/
theorem xorBytes_take (p : Nat) : xorBytes k cv (s.take p) = (xorBytes k cv s).take p := by
  have hkeys : keystream k cv (s.take p).length = (keystream k cv s.length).take p := by
    rw [keystream_eq_take k cv (List.length_take_le' p s)]
    simp [List.take_eq_take_iff]
  rw [xorBytes, hkeys, ← List.take_zipWith, ← xorBytes]

theorem keystream_drop (N n : Nat) :
    (keystream k cv n).drop (64 * N) = keystream k (counterAt cv N) (n - 64 * N) := by
  rcases Nat.le_total (64 * N) n with hN | hN
  · obtain ⟨m, rfl⟩ := Nat.exists_eq_add_of_le hN
    rw [keystream_append, List.drop_left' (length_keystream ..), Nat.add_sub_cancel_left]
  · rw [List.drop_eq_nil_of_le (by simpa using hN), eq_comm]
    exact List.eq_nil_of_length_eq_zero (by simpa [Nat.sub_eq_zero_iff_le] using hN)

/-- After whole blocks `XorBytes` goes on with the counter advanced by them. -/
theorem xorBytes_drop (N : Nat) :
    xorBytes k (counterAt cv N) (s.drop (64 * N)) = (xorBytes k cv s).drop (64 * N) := by
  rw [xorBytes, xorBytes, List.drop_zipWith, keystream_drop, List.length_drop]

theorem xorBytes_zeros (n : Nat) : xorBytes k cv (List.replicate n 0) = keystream k cv n := by
  refine List.ext_getElem (by simp) fun i _ _ => ?_
  simp [getElem_xorBytes]

end

/-- Settles O54: the three laws hold at every length, room or not. -/
theorem xorBytesLaws : Obligations.XorBytesLaws := by
  intro k cv s _
  refine ⟨xorBytes_xorBytes k cv s, fun p _ => xorBytes_take k cv s p, fun N _ => ?_⟩
  rw [xorBytes_take, xorBytes_drop, List.take_append_drop]

/-! The command -/

section
variable {s t : State} {k : Key} {cv : Counter}

/-- With a key and a counter loaded, on plain memory, each failed check of `XOR` has its error, the first in the order
wins (R172). -/
theorem exec_xor_loaded (hk : s.k = some k) (hc : s.c = some cv)
    (hend : ¬(s.slen.toNat = 0 ∧ (s.src.toNat = 2 ^ s.cfg.aw.val ∨ s.dst.toNat = 2 ^ s.cfg.aw.val)))
    (hsrc : isPlain s.cfg s.src.toNat s.slen.toNat = true) (hdst : isPlain s.cfg s.dst.toNat s.slen.toNat = true) :
    exec .xor s =
      if s.slen ≠ s.dlen then .next (s.setErr 3)
      else if blocksNeeded s.slen.toNat > 2 ^ 32 - cv[0].toNat then .next (s.setErr 4)
      else if s.src.toNat + s.slen.toNat > 2 ^ s.cfg.aw.val ∨ s.dst.toNat + s.slen.toNat > 2 ^ s.cfg.aw.val then
        .next (s.setErr 8)
      else if memOK s.cfg .read s.src.toNat s.slen.toNat = false ∨
          memOK s.cfg .write s.dst.toNat s.slen.toNat = false then .next (s.setErr 9)
      else .next ((s.setMem (s.mem.writeBytes s.dst.toNat
        (xorBytes k cv (s.mem.readBytes s.src.toNat s.slen.toNat)))).setErr 0) := by
  have hrange : (inRange s.cfg s.src s.slen.toNat && inRange s.cfg s.dst s.slen.toNat) = false ↔
      s.src.toNat + s.slen.toNat > 2 ^ s.cfg.aw.val ∨ s.dst.toNat + s.slen.toNat > 2 ^ s.cfg.aw.val := by
    rw [Bool.and_eq_false_iff, inRange_eq_false_iff_of_not_emptyAtEnd (fun h => hend ⟨h.1, .inl h.2⟩),
      inRange_eq_false_iff_of_not_emptyAtEnd (fun h => hend ⟨h.1, .inr h.2⟩)]
  rw [exec, execXor, withKey_some hk, withCounter_some hc, requirePlain_of_isPlain hsrc, requirePlain_of_isPlain hdst,
    require_eq_ite beq_eq_false_iff_ne, require_eq_ite counterRoom_eq_false_iff, require_eq_ite hrange,
    require_eq_ite Bool.and_eq_false_iff]
  rfl

/-- Every check of `XOR` passes, with this key and this counter at hand (R172). -/
structure XorPasses (s : State) (k : Key) (cv : Counter) : Prop where
  key      : s.k = some k
  counter  : s.c = some cv
  lengths  : s.slen = s.dlen
  room     : counterRoom cv s.slen.toNat = true
  srcRange : inRange s.cfg s.src s.slen.toNat = true
  dstRange : inRange s.cfg s.dst s.slen.toNat = true
  readable : memOK s.cfg .read s.src.toNat s.slen.toNat = true
  writable : memOK s.cfg .write s.dst.toNat s.slen.toNat = true
  srcPlain : isPlain s.cfg s.src.toNat s.slen.toNat = true
  dstPlain : isPlain s.cfg s.dst.toNat s.slen.toNat = true

/-- The bytes `XOR` stores: `XorBytes` of the input region as it stands in `s` (R171). -/
def xorOutput (s : State) (k : Key) (cv : Counter) : List Byte :=
  xorBytes k cv (s.mem.readBytes s.src.toNat s.slen.toNat)

@[simp] theorem length_xorOutput (s : State) (k : Key) (cv : Counter) :
    (xorOutput s k cv).length = s.slen.toNat := by
  simp [xorOutput]

theorem getElem_xorOutput (s : State) (k : Key) (cv : Counter) {i : Nat} (hi : i < s.slen.toNat) :
    (xorOutput s k cv)[i]'(by rwa [length_xorOutput]) =
      s.mem.readByte (s.src.toNat + i) ^^^ (keystream k cv s.slen.toNat)[i]'(by rwa [length_keystream]) := by
  simp [xorOutput, getElem_xorBytes]

/-- The state a successful `XOR` leaves. -/
def xorResult (s : State) (k : Key) (cv : Counter) : State :=
  (s.setMem (s.mem.writeBytes s.dst.toNat (xorOutput s k cv))).setErr 0

theorem XorPasses.exec_eq (h : XorPasses s k cv) : exec .xor s = .next (xorResult s k cv) := by
  rw [exec, execXor, withKey_some h.key, withCounter_some h.counter, beq_iff_eq.mpr h.lengths, h.room, h.srcRange,
    h.dstRange, h.readable, h.writable, requirePlain_of_isPlain h.srcPlain, requirePlain_of_isPlain h.dstPlain]
  rfl

theorem xorPasses_of_exec (h : exec .xor s = .next t) (ht : t.err = 0) :
    ∃ k cv, XorPasses s k cv ∧ t = xorResult s k cv := by
  rcases execXor_cases h with ⟨e, rfl⟩ | ⟨k, cv, hk, hc, hlen, hroom, hsr, hdr, hrd, hwr, hsp, hdp, rfl⟩
  · exact absurd ht e.code_ne_zero
  · exact ⟨k, cv, ⟨hk, hc, hlen, hroom, hsr, hdr, hrd, hwr, hsp, hdp⟩, rfl⟩

/-- The checks read neither memory nor `ERR`, so they pass again after a success. -/
theorem xorPasses_xorResult (h : XorPasses s k cv) : XorPasses (xorResult s k cv) k cv :=
  ⟨h.key, h.counter, h.lengths, h.room, h.srcRange, h.dstRange, h.readable, h.writable, h.srcPlain, h.dstPlain⟩

theorem readBytes_xorResult (s : State) (k : Key) (cv : Counter) :
    (xorResult s k cv).mem.readBytes s.dst.toNat s.slen.toNat = xorOutput s k cv := by
  have := Memory.readBytes_writeBytes s.mem s.dst.toNat (xorOutput s k cv)
  rwa [length_xorOutput] at this

end

/-- Settles O11: the key is asked for first, then the counter. -/
theorem xorMeaning : Obligations.XorMeaning := by
  refine ⟨decode_encode .xor, fun s hend hsrc hdst => ?_⟩
  cases hk : s.k with
  | none => exact withKey_none hk
  | some k =>
    cases hc : s.c with
    | none => exact (withKey_some hk).trans (withCounter_none hc)
    | some cv => exact exec_xor_loaded hk hc (fun h => hend ⟨BitVec.eq_of_toNat_eq h.1, h.2⟩) hsrc hdst

/-- Settles O19: an output byte XORed with the input byte of the old memory is the keystream byte. -/
theorem xorMeetsAliasingContract : Obligations.XorMeetsAliasingContract := by
  intro s k cv hk hc hlen hroom hsrc hsrc' hdst hdst' hrd hwr hsp hdp
  have hpass : XorPasses s k cv := ⟨hk, hc, hlen, (counterRoom_iff _ _).mpr hroom,
    (inRange_iff _ _ _).mpr ⟨hsrc, hsrc'⟩, (inRange_iff _ _ _).mpr ⟨hdst, hdst'⟩, hrd, hwr, hsp, hdp⟩
  refine ⟨_, hpass.exec_eq, fun i hi => ?_, fun a ha => ?_⟩
  · have hout : i < (xorOutput s k cv).length := by rwa [length_xorOutput]
    have hkey : i < (keystream k cv s.slen.toNat).length := by rwa [length_keystream]
    calc some ((s.mem.writeBytes s.dst.toNat (xorOutput s k cv)).readByte (s.dst.toNat + i) ^^^
          s.mem.readByte (s.src.toNat + i))
        = some (keystream k cv s.slen.toNat)[i] := by
          rw [Memory.readByte_writeBytes_in _ _ _ _ hout, getElem_xorOutput s k cv hi, BitVec.xor_comm,
            ← BitVec.xor_assoc, BitVec.xor_self, BitVec.zero_xor]
      _ = (block k (counterAt cv (i / 64)))[i % 64]? := by
          rw [← List.getElem?_eq_getElem hkey, getElem?_keystream, if_pos hi]
  · exact Memory.readByte_writeBytes_out _ _ _ _ (by rwa [length_xorOutput])

/-- Storing the old bytes of a region again undoes a store to it. -/
theorem Memory.writeBytes_readBytes_restores {m : Memory} (hm : m.wf) (a : Nat) (s : List Byte) :
    (m.writeBytes a s).writeBytes a (m.readBytes a s.length) = m := by
  refine Memory.ext_readByte (Memory.wf_writeBytes _ _ (Memory.wf_writeBytes _ _ hm)) hm fun x => ?_
  by_cases hx : a ≤ x ∧ x < a + s.length
  · simp [Memory.readByte_writeBytes, hx]
  · simp [Memory.readByte_writeBytes, hx]

/-- Settles O55: the second command reads the first one's output, so it stores the old bytes again. -/
theorem xorTwiceInPlaceRestores : Obligations.XorTwiceInPlaceRestores := by
  intro s t hm hsame h ht
  obtain ⟨k, cv, hpass, rfl⟩ := xorPasses_of_exec h ht
  have hout : xorOutput (xorResult s k cv) k cv = s.mem.readBytes s.dst.toNat (xorOutput s k cv).length := by
    calc xorOutput (xorResult s k cv) k cv
        = xorBytes k cv ((xorResult s k cv).mem.readBytes s.dst.toNat s.slen.toNat) := by rw [← hsame]; rfl
      _ = s.mem.readBytes s.dst.toNat (xorOutput s k cv).length := by
          rw [readBytes_xorResult, xorOutput, xorBytes_xorBytes, hsame, length_xorBytes, Memory.length_readBytes]
  rw [(xorPasses_xorResult hpass).exec_eq, xorResult, hout]
  exact congrArg (fun m => Host.Outcome.next ((s.setMem m).setErr 0)) (Memory.writeBytes_readBytes_restores hm _ _)

/-- Settles O56: `XorBytes` of zeros is the keystream. -/
theorem ksgenIsXorOfZeros : Obligations.KsgenIsXorOfZeros := by
  intro s t h ht hsrc hsrc' hrd hsp hzero
  rcases execKsgen_cases h with ⟨e, rfl⟩ | ⟨k, cv, hk, hc, hroom, hdr, hwr, hdp, rfl⟩
  · exact absurd ht e.code_ne_zero
  · have hpass : XorPasses (s.setSlen s.dlen) k cv :=
      ⟨hk, hc, rfl, hroom, (inRange_iff _ _ _).mpr ⟨hsrc, hsrc'⟩, hdr, hrd, hwr, hsp, hdp⟩
    have hinput : s.mem.readBytes s.src.toNat s.dlen.toNat = List.replicate s.dlen.toNat 0 :=
      List.eq_replicate_iff.mpr ⟨Memory.length_readBytes .., by simpa [Memory.readBytes] using hzero⟩
    have hout : xorOutput (s.setSlen s.dlen) k cv = keystream k cv s.dlen.toNat :=
      (congrArg (xorBytes k cv) hinput).trans (xorBytes_zeros k cv _)
    rw [hpass.exec_eq, xorResult, hout]
    rfl

/-- Settles O57: each command's output region holds `XorBytes` of the one input region. -/
theorem xorOverlapInvariance : Obligations.XorOverlapInvariance := by
  intro s t u d h h' ht hu
  obtain ⟨k, cv, hpass, rfl⟩ := xorPasses_of_exec h ht
  obtain ⟨k', cv', hpass', rfl⟩ := xorPasses_of_exec h' hu
  obtain rfl : k = k' := Option.some.inj (hpass.key.symm.trans hpass'.key)
  obtain rfl : cv = cv' := Option.some.inj (hpass.counter.symm.trans hpass'.counter)
  exact (readBytes_xorResult s k cv).trans (readBytes_xorResult (s.setDst d) k cv).symm

/-! Chunk sequences (R174) -/

/-- Chunk `j` of the region of `n` bytes from `a`. -/
def chunkSpan (a n chunk j : Nat) : Span := ⟨a + chunk * j, min chunk (n - chunk * j)⟩

theorem chunkSpan_covers_iff {a n chunk j x : Nat} :
    Span.Covers (chunkSpan a n chunk j) x ↔ a + chunk * j ≤ x ∧ x < a + chunk * j + chunk ∧ x < a + n := by
  simp only [Span.Covers, chunkSpan]
  omega

theorem lt_chunkCount_iff {chunk n j : Nat} (hchunk : 0 < chunk) : j < chunkCount chunk n ↔ chunk * j < n := by
  rw [chunkCount, Nat.lt_iff_add_one_le, Nat.le_div_iff_mul_le hchunk, Nat.add_mul, Nat.mul_comm j]
  omega

/-- Every byte of a region lies in one of its chunks. -/
theorem exists_chunkSpan_covers {a n chunk x : Nat} (hchunk : 0 < chunk) (hx : a ≤ x) (hx' : x < a + n) :
    ∃ j < chunkCount chunk n, Span.Covers (chunkSpan a n chunk j) x := by
  have hdiv := Nat.mul_div_le (x - a) chunk
  have hmod := Nat.lt_mul_div_succ (x - a) hchunk
  rw [Nat.mul_add, Nat.mul_one] at hmod
  exact ⟨(x - a) / chunk, (lt_chunkCount_iff hchunk).mpr (by omega), chunkSpan_covers_iff.mpr (by omega)⟩

theorem Memory.readBytes_slice (m : Memory) (a n i l : Nat) :
    m.readBytes (a + i) (min l (n - i)) = ((m.readBytes a n).drop i).take l := by
  refine List.ext_getElem (by simp) fun _ _ _ => ?_
  simp [Nat.add_assoc]

/-- Storing a slice of a byte string in its place is, inside the slice, storing the whole string. -/
theorem Memory.readByte_writeBytes_slice (m m₀ : Memory) (a i l x : Nat) (s : List Byte) :
    (m.writeBytes (a + i) ((s.drop i).take l)).readByte x =
      if a + i ≤ x ∧ x < a + i + l ∧ x < a + s.length then (m₀.writeBytes a s).readByte x else m.readByte x := by
  have hlen : ((s.drop i).take l).length = min l (s.length - i) := by simp
  split_ifs with hx
  · rw [Memory.readByte_writeBytes, Memory.readByte_writeBytes, dif_pos (by omega), dif_pos (by omega)]
    simp only [List.getElem_take, List.getElem_drop]
    congr 1
    omega
  · exact Memory.readByte_writeBytes_out _ _ _ _ (by omega)

/-- No chunk reads a byte that an earlier chunk of the list has written. -/
def SafeOrder (src dst n chunk : Nat) (chunks : List Nat) : Prop :=
  chunks.Pairwise fun j l => Span.disjoint (chunkSpan dst n chunk j) (chunkSpan src n chunk l)

section
variable {k : Key} {cv : Counter} {src dst n chunk : Nat} {m : Memory}

/-- A chunk that finds its input as it was in `m₀` stores its slice of the bytes one command on `m₀` stores. -/
theorem chunkStep_eq_writeBytes (hchunk : chunk % 64 = 0) {m₀ : Memory} {j : Nat}
    (hinput : ∀ x, Span.Covers (chunkSpan src n chunk j) x → m.readByte x = m₀.readByte x) :
    chunkStep k cv src dst n chunk m j =
      m.writeBytes (dst + chunk * j) (((xorBytes k cv (m₀.readBytes src n)).drop (chunk * j)).take chunk) := by
  have hread : m.readBytes (src + chunk * j) (min chunk (n - chunk * j)) =
      m₀.readBytes (src + chunk * j) (min chunk (n - chunk * j)) :=
    Memory.readBytes_congr fun x hx hx' => hinput x ⟨hx, hx'⟩
  obtain ⟨c, rfl⟩ := Nat.dvd_of_mod_eq_zero hchunk
  rw [chunkStep, hread, Nat.mul_assoc, ← xorBytes_drop, ← xorBytes_take, ← Memory.readBytes_slice]
  simp [xorBytes]

theorem wf_foldl_chunkStep (hm : m.wf) (chunks : List Nat) : (chunks.foldl (chunkStep k cv src dst n chunk) m).wf :=
  List.foldlRecOn chunks _ hm fun _ hm _ _ => Memory.wf_writeBytes _ _ hm

/-- Inside its output, a chunk that finds its input as it was in `m₀` leaves what one command on `m₀` leaves. -/
theorem readByte_chunkStep (hchunk : chunk % 64 = 0) {m₀ : Memory} {j : Nat}
    (hinput : ∀ x, Span.Covers (chunkSpan src n chunk j) x → m.readByte x = m₀.readByte x) (x : Nat) :
    (chunkStep k cv src dst n chunk m j).readByte x =
      if Span.Covers (chunkSpan dst n chunk j) x then
        (m₀.writeBytes dst (xorBytes k cv (m₀.readBytes src n))).readByte x
      else m.readByte x := by
  rw [chunkStep_eq_writeBytes hchunk hinput, Memory.readByte_writeBytes_slice m m₀]
  simp only [chunkSpan_covers_iff, length_xorBytes, Memory.length_readBytes]

/-- In a safe order every byte of a performed chunk's output is as one command on `m` leaves it, and every other byte is
as it was. -/
theorem readByte_foldl_chunkStep (hchunk : chunk % 64 = 0) {chunks : List Nat}
    (hsafe : SafeOrder src dst n chunk chunks) (x : Nat) :
    (chunks.foldl (chunkStep k cv src dst n chunk) m).readByte x =
      if ∃ j ∈ chunks, Span.Covers (chunkSpan dst n chunk j) x then
        (m.writeBytes dst (xorBytes k cv (m.readBytes src n))).readByte x
      else m.readByte x := by
  induction chunks using List.reverseRecOn generalizing x with
  | nil => simp
  | append_singleton chunks l ih =>
    obtain ⟨hchunks, -, hlast⟩ := List.pairwise_append.mp hsafe
    have hinput : ∀ y, Span.Covers (chunkSpan src n chunk l) y →
        (chunks.foldl (chunkStep k cv src dst n chunk) m).readByte y = m.readByte y := fun y hy => by
      rw [ih hchunks, if_neg]
      rintro ⟨j, hj, hjy⟩
      exact hlast j hj l (List.mem_singleton_self l) y ⟨hjy, hy⟩
    rw [List.foldl_append, List.foldl_cons, List.foldl_nil, readByte_chunkStep hchunk hinput, ih hchunks]
    simp only [List.mem_append, List.mem_singleton, or_and_right, exists_or, exists_eq_left, or_comm, ite_or]

/-- Chunks that cover the request, in a safe order, meet the aliasing contract (R171). -/
theorem foldl_chunkStep_eq_snapshot (hm : m.wf) (hpos : 0 < chunk) (hchunk : chunk % 64 = 0) {chunks : List Nat}
    (hall : ∀ j < chunkCount chunk n, j ∈ chunks) (hsafe : SafeOrder src dst n chunk chunks) :
    chunks.foldl (chunkStep k cv src dst n chunk) m = m.writeBytes dst (xorBytes k cv (m.readBytes src n)) := by
  refine Memory.ext_readByte (wf_foldl_chunkStep hm chunks) (Memory.wf_writeBytes _ _ hm) fun x => ?_
  rw [readByte_foldl_chunkStep hchunk hsafe]
  split_ifs with hx
  · rfl
  · refine (Memory.readByte_writeBytes_out _ _ _ _ ?_).symm
    rw [length_xorBytes, Memory.length_readBytes]
    by_contra hin
    obtain ⟨j, hj, hjx⟩ := exists_chunkSpan_covers (a := dst) (n := n) (x := x) hpos (by omega) (by omega)
    exact hx ⟨j, hall j hj, hjx⟩

/-- A chunk's output meets a later chunk's input only if the output starts inside the input region above its start and
there is more than one chunk (R175). -/
theorem forwardOverlap_of_covers {j l x : Nat} (hjl : j < l) (hj : Span.Covers (chunkSpan dst n chunk j) x)
    (hl : Span.Covers (chunkSpan src n chunk l) x) : src < dst ∧ dst < src + n ∧ chunk < n := by
  have hnext : chunk * j + chunk ≤ chunk * l := Nat.mul_le_mul_left chunk hjl
  rw [chunkSpan_covers_iff] at hj hl
  omega

/-- With such an overlap the first chunk already writes a byte that a later one reads: the first input byte behind
both the first chunk and the start of the output (R175). -/
theorem exists_covers_of_forwardOverlap (hpos : 0 < chunk) (hlow : src < dst) (hhigh : dst < src + n)
    (hmore : chunk < n) :
    ∃ l x, 0 < l ∧ l < chunkCount chunk n ∧ Span.Covers (chunkSpan dst n chunk 0) x ∧
      Span.Covers (chunkSpan src n chunk l) x := by
  obtain ⟨l, hl, hcov⟩ := exists_chunkSpan_covers (a := src) (n := n) (x := src + max (dst - src) chunk) hpos
    (by omega) (by omega)
  refine ⟨l, _, Nat.pos_of_ne_zero ?_, hl, chunkSpan_covers_iff.mpr (by omega), hcov⟩
  rintro rfl
  rw [chunkSpan_covers_iff] at hcov
  omega

/-- Ascending order is safe but in the geometry of R175. -/
theorem safeOrder_ascending (h : ¬(src < dst ∧ dst < src + n ∧ chunk < n)) (count : Nat) :
    SafeOrder src dst n chunk (List.range count) :=
  List.pairwise_lt_range.imp fun hjl _ hx => h (forwardOverlap_of_covers hjl hx.1 hx.2)

/-- Descending order is safe where the output starts above the input (R176). -/
theorem safeOrder_descending (h : src < dst) (count : Nat) : SafeOrder src dst n chunk (List.range count).reverse := by
  refine List.pairwise_reverse.mpr (List.pairwise_lt_range.imp fun {l j} hlj x hx => ?_)
  have hnext : chunk * l + chunk ≤ chunk * j := Nat.mul_le_mul_left chunk hlj
  have hout := chunkSpan_covers_iff.mp hx.1
  have hin := chunkSpan_covers_iff.mp hx.2
  omega

theorem ascendingXor_eq_snapshot (hm : m.wf) (hpos : 0 < chunk) (hchunk : chunk % 64 = 0)
    (h : ¬(src < dst ∧ dst < src + n ∧ chunk < n)) :
    ascendingXor k cv src dst n chunk m = m.writeBytes dst (xorBytes k cv (m.readBytes src n)) :=
  foldl_chunkStep_eq_snapshot hm hpos hchunk (fun _ hj => List.mem_range.mpr hj) (safeOrder_ascending h _)

end

/-- Settles O58: the direction R174 chooses is safe in each geometry. -/
theorem chunkSequenceMeetsSnapshot : Obligations.ChunkSequenceMeetsSnapshot := by
  intro k cv src dst n chunk m hm hpos hchunk _
  unfold referenceXor
  split_ifs with hoverlap
  · exact foldl_chunkStep_eq_snapshot hm hpos hchunk (by simp) (safeOrder_descending hoverlap.1 _)
  · exact ascendingXor_eq_snapshot hm hpos hchunk fun h => hoverlap ⟨h.1, h.2.1⟩

/-- Settles O59: an overwritten byte is read in exactly the one geometry; in the others ascending order is safe. -/
theorem ascendingOrderFailsExactly : Obligations.AscendingOrderFailsExactly := by
  intro k cv src dst n chunk m hm hpos hchunk _
  refine ⟨⟨?_, ?_⟩, ascendingXor_eq_snapshot hm hpos hchunk⟩
  · rintro ⟨j, l, x, hjl, _, hj, hl⟩
    exact forwardOverlap_of_covers hjl hj hl
  · rintro ⟨hlow, hhigh, hmore⟩
    obtain ⟨l, x, hl, hcount, hout, hin⟩ := exists_covers_of_forwardOverlap hpos hlow hhigh hmore
    exact ⟨0, l, x, hl, hcount, hout, hin⟩

end Sys2Proof.Machine
end

section
/-! The proofs of the statements on errors (60_exceptions.md).

A failed command writes `ERR` alone, and no command reads `ERR` (R82): issued again from the state it left, it fails in
the same way. -/

namespace Sys2Proof.Machine

/-- Settles O22: of the effects a command can have, only a raised error leaves `ERR` other than 0. -/
theorem failedCommandChangesOnlyErr : Obligations.FailedCommandChangesOnlyErr := by
  intro i s t h herr
  rcases exec_cases h with hfailed | ⟨_, k, rfl⟩ | ⟨_, cv, rfl⟩ | ⟨_, _, cv, _, _, rfl⟩ | ⟨_, b, rfl⟩ |
    ⟨_, out, _, _, rfl⟩
  · exact hfailed
  all_goals exact absurd rfl herr

/-- No command reads `ERR`, and every command that completes overwrites it (R82). -/
theorem exec_setErr {i : Instr} {s t : State} (h : exec i s = .next t) (v : Byte) :
    exec i (s.setErr v) = .next t :=
  (unreadRegistersDoNotMatter s t 0 0 0 0 0 v none none none).1 i h

/-- Settles O23: the state the failure left is the old one but for `ERR`, which the command does not read. -/
theorem failedCommandRepeats : Obligations.FailedCommandRepeats := by
  intro i s t h herr
  obtain ⟨e, ht⟩ := failedCommandChangesOnlyErr i s t h herr
  have hagain : exec i (s.setErr e.code) = .next t := exec_setErr h e.code
  rwa [← ht] at hagain

end Sys2Proof.Machine
end

section
/-! The proofs of the statements on whole steps and runs (70_reset_and_hazards.md).

Each clause on a single step is read off the effects of a line (`LineEffect`). A command's checks raise errors, which
are next states, and it refuses a window of its own regions only (`ConfinedToRegions`); so where the platform has no
window every well-formed line completes, and a script of such lines runs to its end. -/

namespace Sys2Proof.Machine

variable {s t : State} {act : HostAction}

/-! One step -/

/-- No line touches the lines after it or the platform, and observations are only added (R41, R88). -/
theorem LineEffect.hostSide (h : LineEffect s act t) :
    t.script = s.script ∧ t.cfg = s.cfg ∧ s.obs <+: t.obs := by
  cases h with
  | register r v hr => simp
  | registerRead | memoryRead => exact ⟨rfl, rfl, List.prefix_append ..⟩
  | _ => exact ⟨rfl, rfl, List.prefix_rfl⟩

/-- Settles O5. -/
theorem stepConsumesOneLine : Obligations.StepConsumesOneLine := by
  intro s t h
  rcases step_lineEffect h with ⟨hs, rfl⟩ | ⟨act, rest, hs, he⟩
  · simp [hs]
  · rw [hs]
    exact he.hostSide

/-- A command that loads `K`, `C` or `B` sets its valid bit, and only reset takes a value away (R27, R241). -/
theorem LineEffect.keeps_validBits (h : LineEffect s act t) (hreset : act ≠ .reset) :
    (s.kv = true → t.kv = true) ∧ (s.cv = true → t.cv = true) ∧ (s.bv = true → t.bv = true) := by
  cases h with
  | ldkey => exact ⟨fun _ => rfl, id, id⟩
  | ldctr | ctrnext => exact ⟨id, fun _ => rfl, id⟩
  | block => exact ⟨id, id, fun _ => rfl⟩
  | register r v hr => simp [State.kv, State.cv, State.bv]
  | reset => exact absurd rfl hreset
  | _ => exact ⟨id, id, id⟩

/-- Settles O29. -/
theorem onlyResetClearsValidBits : Obligations.OnlyResetClearsValidBits := by
  intro s t h hnr
  rcases step_lineEffect h with ⟨_, rfl⟩ | ⟨act, rest, hs, he⟩
  · exact ⟨id, id, id⟩
  · exact he.keeps_validBits (s := s.setScript rest) fun hact => hnr rest (hact ▸ hs)

/-! What a command refuses -/

/-- The outcome is a next state, or refuses a window by its name and one of the two regions meets it. -/
def ConfinedToRegions (cfg : Config) (p q : Span) (o : Host.Outcome State Fault Refusal) : Prop :=
  (∃ t, o = .next t) ∨
  (o = .refused .registerWindow ∧ (hitsRegisters cfg p.base p.size = true ∨ hitsRegisters cfg q.base q.size = true)) ∨
  (o = .refused .deviceWindow ∧ (hitsDevice cfg p.base p.size = true ∨ hitsDevice cfg q.base q.size = true))

section
variable {cfg : Config} {p q : Span} {go : Host.Outcome State Fault Refusal}

theorem confined_next (t : State) : ConfinedToRegions cfg p q (.next t) := .inl ⟨t, rfl⟩

theorem confined_require {b : Bool} {e : CmdError} (h : b = true → ConfinedToRegions cfg p q go) :
    ConfinedToRegions cfg p q (require b e s go) := by
  cases b
  · exact confined_next _
  · exact h rfl

theorem confined_withKey {f : Key → Host.Outcome State Fault Refusal} (h : ∀ k, ConfinedToRegions cfg p q (f k)) :
    ConfinedToRegions cfg p q (withKey s f) := by
  cases hk : s.k with
  | none => exact withKey_none hk ▸ confined_next _
  | some k => exact withKey_some hk ▸ h k

theorem confined_withCounter {f : Counter → Host.Outcome State Fault Refusal}
    (h : ∀ cv, ConfinedToRegions cfg p q (f cv)) : ConfinedToRegions cfg p q (withCounter s f) := by
  cases hc : s.c with
  | none => exact withCounter_none hc ▸ confined_next _
  | some cv => exact withCounter_some hc ▸ h cv

theorem confined_requirePlain {a n : Nat} (hregion : p = ⟨a, n⟩ ∨ q = ⟨a, n⟩) (h : ConfinedToRegions cfg p q go) :
    ConfinedToRegions cfg p q (requirePlain cfg a n go) := by
  unfold requirePlain
  split_ifs with hreg hdev
  · exact .inr (.inl ⟨rfl, hregion.imp (by rintro rfl; exact hreg) (by rintro rfl; exact hreg)⟩)
  · exact .inr (.inr ⟨rfl, hregion.imp (by rintro rfl; exact hdev) (by rintro rfl; exact hdev)⟩)
  · exact h

end

/-- The regions a command requires to be plain are those it reads and writes (R60). -/
theorem exec_confined (i : Instr) (s : State) :
    ConfinedToRegions s.cfg (readSpan i s) (writeSpan i s) (exec i s) := by
  cases i with
  | ldkey | ldctr =>
    exact confined_require fun _ => confined_require fun _ => confined_require fun _ =>
      confined_requirePlain (.inl rfl) (confined_next _)
  | ctrnext =>
    refine confined_withCounter fun cv => ?_
    cases nextCounter cv <;> exact confined_next _
  | block => exact confined_withKey fun k => confined_withCounter fun cv => confined_next _
  | ksgen =>
    exact confined_withKey fun k => confined_withCounter fun cv => confined_require fun _ => confined_require fun _ =>
      confined_require fun _ => confined_requirePlain (.inr rfl) (confined_next _)
  | xor =>
    refine confined_withKey fun k => confined_withCounter fun cv => confined_require fun hlen =>
      confined_require fun _ => confined_require fun _ => confined_require fun _ =>
      confined_requirePlain (.inl rfl) <| confined_requirePlain (.inr ?_) (confined_next _)
    rw [eq_of_beq hlen]
    rfl

/-- An empty region meets no window. -/
theorem isPlain_empty (cfg : Config) (a : Nat) : isPlain cfg a 0 = true := by
  simp [isPlain, hitsRegisters, hitsDevice, Span.meets]

/-- A command that succeeds has passed the check that its regions are plain (log 5). -/
theorem exec_plain_of_success {i : Instr} (h : exec i s = .next t) (ht : t.err = 0) :
    isPlain s.cfg (readSpan i s).base (readSpan i s).size = true ∧
    isPlain s.cfg (writeSpan i s).base (writeSpan i s).size = true := by
  cases i with
  | ldkey =>
    rcases execLdkey_cases h with ⟨e, rfl⟩ | ⟨_, _, _, hplain, _⟩
    · exact absurd ht e.code_ne_zero
    · exact ⟨hplain, isPlain_empty ..⟩
  | ldctr =>
    rcases execLdctr_cases h with ⟨e, rfl⟩ | ⟨_, _, _, hplain, _⟩
    · exact absurd ht e.code_ne_zero
    · exact ⟨hplain, isPlain_empty ..⟩
  | ctrnext | block => exact ⟨isPlain_empty .., isPlain_empty ..⟩
  | ksgen =>
    rcases execKsgen_cases h with ⟨e, rfl⟩ | ⟨_, _, _, _, _, _, _, hplain, _⟩
    · exact absurd ht e.code_ne_zero
    · exact ⟨isPlain_empty .., hplain⟩
  | xor =>
    obtain ⟨k, cv, hpass, _⟩ := xorPasses_of_exec h ht
    exact ⟨hpass.srcPlain, by simpa [writeSpan, ← hpass.lengths] using hpass.dstPlain⟩

/-- Settles O13. -/
theorem commandsRefuseOnlyWindows : Obligations.CommandsRefuseOnlyWindows :=
  fun i s => ⟨exec_confined i s, fun _ h ht => exec_plain_of_success h ht⟩

/-! A whole run -/

/-- The platform maps neither registers nor devices into memory. -/
def NoWindows (cfg : Config) : Prop := cfg.regWindows = [] ∧ cfg.devices = []

section
variable {cfg : Config}

theorem hitsRegisters_of_noWindows (h : NoWindows cfg) (a n : Nat) : hitsRegisters cfg a n = false := by
  simp [hitsRegisters, h.1]

theorem hitsDevice_of_noWindows (h : NoWindows cfg) (a n : Nat) : hitsDevice cfg a n = false := by
  simp [hitsDevice, h.2]

theorem isPlain_of_noWindows (h : NoWindows cfg) (a n : Nat) : isPlain cfg a n = true := by
  simp [isPlain, hitsRegisters_of_noWindows h, hitsDevice_of_noWindows h]

/-- Where no region meets a window nothing is left to refuse. -/
theorem exists_next_of_confined {p q : Span} {o : Host.Outcome State Fault Refusal} (h : NoWindows cfg)
    (ho : ConfinedToRegions cfg p q o) : ∃ t, o = .next t := by
  rcases ho with hnext | ⟨_, hhit⟩ | ⟨_, hhit⟩
  · exact hnext
  · simp [hitsRegisters_of_noWindows h] at hhit
  · simp [hitsDevice_of_noWindows h] at hhit

end

theorem command_completes (hcfg : NoWindows s.cfg) (w : Word) : ∃ t, command w s = .next t := by
  cases hd : decode w with
  | error e => exact ⟨_, command_error hd⟩
  | ok i =>
    rw [command_ok hd]
    exact exists_next_of_confined hcfg (exec_confined i s)

theorem writeReg_completes (hcfg : NoWindows s.cfg) (off : Nat) (v : Word) : ∃ t, writeReg s off v = .next t := by
  cases hoff : regAt off with
  | none => exact ⟨_, writeReg_reserved s v hoff⟩
  | some r =>
    obtain rfl := offset_of_regAt hoff
    by_cases hr : r = .cmd
    · subst hr
      exact command_completes hcfg v
    · exact ⟨_, writeReg_offset s v hr⟩

/-- No well-formed line faults or is refused where the platform has no window (R34, R38). -/
theorem perform_completes (hcfg : NoWindows s.cfg) (hact : act.WellFormed s.cfg) : ∃ t, perform act s = .next t := by
  cases act with
  | wr off size v =>
    simp only [perform, if_pos hact]
    exact writeReg_completes hcfg off v
  | rd off size => exact ⟨_, if_pos hact⟩
  | mw a bytes => exact ⟨_, hostMem_plain hact (isPlain_of_noWindows hcfg _ _)⟩
  | mr a n => exact ⟨_, hostMem_plain hact (isPlain_of_noWindows hcfg _ _)⟩
  | reset => exact ⟨_, rfl⟩

/-- No window on the platform, and every line still to run is well-formed. -/
def Runnable (s : State) : Prop := NoWindows s.cfg ∧ ∀ act ∈ s.script, act.WellFormed s.cfg

theorem step_completes (hs : Runnable s) : ∃ t, step s = .next t := by
  obtain ⟨hcfg, hlines⟩ := hs
  cases hscript : s.script with
  | nil => exact ⟨s, step_nil hscript⟩
  | cons act rest =>
    rw [step_cons hscript]
    exact perform_completes hcfg (hlines act (by simp [hscript]))

/-- The lines left are some of those there were, on the same platform. -/
theorem Runnable.of_step (hs : Runnable s) (h : step s = .next t) : Runnable t := by
  obtain ⟨hcfg, hlines⟩ := hs
  obtain ⟨hscript, hsame, _⟩ := stepConsumesOneLine s t h
  unfold Runnable
  rw [hscript, hsame]
  exact ⟨hcfg, fun act hact => hlines act (List.mem_of_mem_tail hact)⟩

theorem run_succ_of_step {n : Nat} (h : step s = .next t) : Host.Core.run core (n + 1) s = Host.Core.run core n t := by
  have hcore : core.step s = .next t := h
  simp only [Host.Core.run, hcore]

/-- A script runs to its end in as many steps as it has lines, by induction on the lines. -/
theorem run_completes (hs : Runnable s) : ∃ t, Host.Core.run core s.script.length s = .next t ∧ t.script = [] := by
  induction hscript : s.script generalizing s with
  | nil => exact ⟨s, rfl, hscript⟩
  | cons act rest ih =>
    obtain ⟨t, ht⟩ := step_completes hs
    have hrest : t.script = rest := by simp [(stepConsumesOneLine s t ht).1, hscript]
    rw [List.length_cons, run_succ_of_step ht]
    exact ih (hs.of_step ht) hrest

/-- Settles O36. -/
theorem wellFormedScriptRunsToEnd : Obligations.WellFormedScriptRunsToEnd := by
  intro s hreg hdev hlines
  have hs : Runnable s := ⟨⟨hreg, hdev⟩, hlines⟩
  obtain ⟨t, ht⟩ := step_completes hs
  obtain ⟨⟨hreg', hdev'⟩, hlines'⟩ := hs.of_step ht
  exact ⟨⟨t, ht, hreg', hdev', (stepConsumesOneLine s t ht).1, hlines'⟩, run_completes hs⟩

end Sys2Proof.Machine
end
